-- ==== Sys2Proof/Word.lean ====
section
/-! DEFINITION. The word types of the machine (10_state.md, 30_encoding.md R57). -/

namespace Sys2Proof

/-- A byte of memory, a general register, a timer, an immediate `kk`. -/
abbrev Byte := BitVec 8

/-- `I`, `PC`, a stack entry, an instruction word. -/
abbrev Word := BitVec 16

/-- A 4-bit immediate `n`, and one hex digit of an instruction word. -/
abbrev Nibble := BitVec 4

/-- A 12-bit address field `nnn`. -/
abbrev Addr12 := BitVec 12

/-- The number of a general register (`x`, `y`) or of a key: every value 0..15 is legal (R59). -/
abbrev RegNum := Fin 16

end Sys2Proof
end

