-- ==== Sys2Proof/Syntax.lean ====
section
/-! DEFINITION. The 35 instructions, one constructor per row of spec/opcode_table.json (30_encoding.md R60), each
with exactly its operand fields (R61). -/

namespace Sys2Proof

/-- A decoded instruction. `x` and `y` are register numbers, `kk` a byte, `n` a nibble, `nnn` a 12-bit address. -/
inductive Instr where
  /-- `SYS addr`, 0nnn except 00E0 and 00EE (R124). -/
  | sys (nnn : Addr12)
  /-- `CLS`, 00E0 (R106). -/
  | cls
  /-- `RET`, 00EE (R82). -/
  | ret
  /-- `JP addr`, 1nnn (R80). -/
  | jp (nnn : Addr12)
  /-- `CALL addr`, 2nnn (R81). -/
  | call (nnn : Addr12)
  /-- `SE Vx, byte`, 3xkk (R84). -/
  | seImm (x : RegNum) (kk : Byte)
  /-- `SNE Vx, byte`, 4xkk (R85). -/
  | sneImm (x : RegNum) (kk : Byte)
  /-- `SE Vx, Vy`, 5xy0 (R86). -/
  | seReg (x y : RegNum)
  /-- `LD Vx, byte`, 6xkk (R90). -/
  | ldImm (x : RegNum) (kk : Byte)
  /-- `ADD Vx, byte`, 7xkk (R91). -/
  | addImm (x : RegNum) (kk : Byte)
  /-- `LD Vx, Vy`, 8xy0 (R92). -/
  | ldReg (x y : RegNum)
  /-- `OR Vx, Vy`, 8xy1 (R93). -/
  | orReg (x y : RegNum)
  /-- `AND Vx, Vy`, 8xy2 (R94). -/
  | andReg (x y : RegNum)
  /-- `XOR Vx, Vy`, 8xy3 (R95). -/
  | xorReg (x y : RegNum)
  /-- `ADD Vx, Vy`, 8xy4 (R96). -/
  | addReg (x y : RegNum)
  /-- `SUB Vx, Vy`, 8xy5 (R97). -/
  | subReg (x y : RegNum)
  /-- `SHR Vx, Vy`, 8xy6 (R98); `y` is read only under `SHIFT_SOURCE = VY`. -/
  | shr (x y : RegNum)
  /-- `SUBN Vx, Vy`, 8xy7 (R99). -/
  | subn (x y : RegNum)
  /-- `SHL Vx, Vy`, 8xyE (R100); `y` is read only under `SHIFT_SOURCE = VY`. -/
  | shl (x y : RegNum)
  /-- `SNE Vx, Vy`, 9xy0 (R87). -/
  | sneReg (x y : RegNum)
  /-- `LD I, addr`, Annn (R121). -/
  | ldI (nnn : Addr12)
  /-- `JP V0, addr`, Bnnn (R83). -/
  | jpV0 (nnn : Addr12)
  /-- `RND Vx, byte`, Cxkk (R101). -/
  | rnd (x : RegNum) (kk : Byte)
  /-- `DRW Vx, Vy, nibble`, Dxyn (R104). -/
  | drw (x y : RegNum) (n : Nibble)
  /-- `SKP Vx`, Ex9E (R117). -/
  | skp (x : RegNum)
  /-- `SKNP Vx`, ExA1 (R118). -/
  | sknp (x : RegNum)
  /-- `LD Vx, DT`, Fx07 (R113). -/
  | ldVxDT (x : RegNum)
  /-- `LD Vx, K`, Fx0A (R119). -/
  | ldVxK (x : RegNum)
  /-- `LD DT, Vx`, Fx15 (R114). -/
  | ldDTVx (x : RegNum)
  /-- `LD ST, Vx`, Fx18 (R115). -/
  | ldSTVx (x : RegNum)
  /-- `ADD I, Vx`, Fx1E (R122). -/
  | addI (x : RegNum)
  /-- `LD F, Vx`, Fx29 (R123). -/
  | ldF (x : RegNum)
  /-- `LD B, Vx`, Fx33 (R107). -/
  | ldB (x : RegNum)
  /-- `LD [I], Vx`, Fx55 (R108). -/
  | ldStore (x : RegNum)
  /-- `LD Vx, [I]`, Fx65 (R109). -/
  | ldLoad (x : RegNum)
  deriving DecidableEq, Repr

end Sys2Proof
end

