-- ==== Sys2Proof/Decode.lean ====
section
/-! DEFINITION. The decoder (30_encoding.md R61, R62), a total function from any word to an instruction or a
rejection by name, and the encoder, written from the formats of R58 and the opcode map of R60. -/

namespace Sys2Proof

/-- What the decoder answers (R61): an instruction, or `UnknownOpcode(w)` with the raw word. -/
inductive Decoded where
  | instr (i : Instr)
  | unknownOpcode (w : Word)
  deriving DecidableEq, Repr

/-! The fields of a word (R57). -/

/-- `op = w[15:12]`. -/
def opField (w : Word) : Nibble := w.extractLsb' 12 4

/-- `x = w[11:8]`. -/
def xField (w : Word) : RegNum := (w.extractLsb' 8 4).toFin

/-- `y = w[7:4]`. -/
def yField (w : Word) : RegNum := (w.extractLsb' 4 4).toFin

/-- `n = w[3:0]`. -/
def nField (w : Word) : Nibble := w.extractLsb' 0 4

/-- `kk = w[7:0]`. -/
def kkField (w : Word) : Byte := w.extractLsb' 0 8

/-- `nnn = w[11:0]`. -/
def nnnField (w : Word) : Addr12 := w.extractLsb' 0 12

/-- Family 0x0, dispatched on the whole word (R62). -/
def decodeFamily0 (w : Word) : Decoded :=
  if w = 0x00E0#16 then .instr .cls
  else if w = 0x00EE#16 then .instr .ret
  else .instr (.sys (nnnField w))

/-- Family 0x8, dispatched on `n` (R62). -/
def decodeFamily8 (w : Word) : Decoded :=
  match nField w with
  | 0x0#4 => .instr (.ldReg (xField w) (yField w))
  | 0x1#4 => .instr (.orReg (xField w) (yField w))
  | 0x2#4 => .instr (.andReg (xField w) (yField w))
  | 0x3#4 => .instr (.xorReg (xField w) (yField w))
  | 0x4#4 => .instr (.addReg (xField w) (yField w))
  | 0x5#4 => .instr (.subReg (xField w) (yField w))
  | 0x6#4 => .instr (.shr (xField w) (yField w))
  | 0x7#4 => .instr (.subn (xField w) (yField w))
  | 0xE#4 => .instr (.shl (xField w) (yField w))
  | _ => .unknownOpcode w

/-- Family 0xE, dispatched on `kk` (R62). -/
def decodeFamilyE (w : Word) : Decoded :=
  match kkField w with
  | 0x9E#8 => .instr (.skp (xField w))
  | 0xA1#8 => .instr (.sknp (xField w))
  | _ => .unknownOpcode w

/-- Family 0xF, dispatched on `kk` (R62). -/
def decodeFamilyF (w : Word) : Decoded :=
  match kkField w with
  | 0x07#8 => .instr (.ldVxDT (xField w))
  | 0x0A#8 => .instr (.ldVxK (xField w))
  | 0x15#8 => .instr (.ldDTVx (xField w))
  | 0x18#8 => .instr (.ldSTVx (xField w))
  | 0x1E#8 => .instr (.addI (xField w))
  | 0x29#8 => .instr (.ldF (xField w))
  | 0x33#8 => .instr (.ldB (xField w))
  | 0x55#8 => .instr (.ldStore (xField w))
  | 0x65#8 => .instr (.ldLoad (xField w))
  | _ => .unknownOpcode w

/-- The decoder: the dispatch of R62 on the top nibble. The last arm is nibble 0xF, the only one left. -/
def decode (w : Word) : Decoded :=
  match opField w with
  | 0x0#4 => decodeFamily0 w
  | 0x1#4 => .instr (.jp (nnnField w))
  | 0x2#4 => .instr (.call (nnnField w))
  | 0x3#4 => .instr (.seImm (xField w) (kkField w))
  | 0x4#4 => .instr (.sneImm (xField w) (kkField w))
  | 0x5#4 => if nField w = 0x0#4 then .instr (.seReg (xField w) (yField w)) else .unknownOpcode w
  | 0x6#4 => .instr (.ldImm (xField w) (kkField w))
  | 0x7#4 => .instr (.addImm (xField w) (kkField w))
  | 0x8#4 => decodeFamily8 w
  | 0x9#4 => if nField w = 0x0#4 then .instr (.sneReg (xField w) (yField w)) else .unknownOpcode w
  | 0xA#4 => .instr (.ldI (nnnField w))
  | 0xB#4 => .instr (.jpV0 (nnnField w))
  | 0xC#4 => .instr (.rnd (xField w) (kkField w))
  | 0xD#4 => .instr (.drw (xField w) (yField w) (nField w))
  | 0xE#4 => decodeFamilyE w
  | _ => decodeFamilyF w

/-- An instruction word from its two bytes, big-endian (20_memory.md R45): `w = {mem[PC], mem[PC+1]}`. -/
def wordOfBytes (hi lo : Byte) : Word := hi ++ lo

/-- The decoder on bytes in memory order: the first two are one instruction (R56), the others are left over. Fewer
than two bytes hold no instruction word. -/
def decodeBytes : List Byte → Option (Decoded × List Byte)
  | hi :: lo :: rest => some (decode (wordOfBytes hi lo), rest)
  | [_] => none
  | [] => none

/-! The encoder: one definition per format of R58. -/

/-- A register number as a hex digit of the word. -/
def regNibble (x : RegNum) : Nibble := BitVec.ofFin x

/-- Format `A`: `op`, `nnn`. -/
def formatA (op : Nibble) (nnn : Addr12) : Word := op ++ nnn

/-- Format `XK`: `op`, `x`, `kk`. -/
def formatXK (op : Nibble) (x : RegNum) (kk : Byte) : Word := (op ++ regNibble x : Byte) ++ kk

/-- Formats `XY`, `XY*` and `XYN`: `op`, `x`, `y` and the low nibble. -/
def formatXY (op : Nibble) (x y : RegNum) (n : Nibble) : Word :=
  (op ++ regNibble x : Byte) ++ (regNibble y ++ n : Byte)

/-- Format `X`: `op`, `x` and the sub-opcode byte. -/
def formatX (op : Nibble) (x : RegNum) (sub : Byte) : Word := (op ++ regNibble x : Byte) ++ sub

/-- The word of an instruction (R58, R60). -/
def encode : Instr → Word
  | .sys nnn => formatA 0x0#4 nnn
  | .cls => 0x00E0#16
  | .ret => 0x00EE#16
  | .jp nnn => formatA 0x1#4 nnn
  | .call nnn => formatA 0x2#4 nnn
  | .seImm x kk => formatXK 0x3#4 x kk
  | .sneImm x kk => formatXK 0x4#4 x kk
  | .seReg x y => formatXY 0x5#4 x y 0x0#4
  | .ldImm x kk => formatXK 0x6#4 x kk
  | .addImm x kk => formatXK 0x7#4 x kk
  | .ldReg x y => formatXY 0x8#4 x y 0x0#4
  | .orReg x y => formatXY 0x8#4 x y 0x1#4
  | .andReg x y => formatXY 0x8#4 x y 0x2#4
  | .xorReg x y => formatXY 0x8#4 x y 0x3#4
  | .addReg x y => formatXY 0x8#4 x y 0x4#4
  | .subReg x y => formatXY 0x8#4 x y 0x5#4
  | .shr x y => formatXY 0x8#4 x y 0x6#4
  | .subn x y => formatXY 0x8#4 x y 0x7#4
  | .shl x y => formatXY 0x8#4 x y 0xE#4
  | .sneReg x y => formatXY 0x9#4 x y 0x0#4
  | .ldI nnn => formatA 0xA#4 nnn
  | .jpV0 nnn => formatA 0xB#4 nnn
  | .rnd x kk => formatXK 0xC#4 x kk
  | .drw x y n => formatXY 0xD#4 x y n
  | .skp x => formatX 0xE#4 x 0x9E#8
  | .sknp x => formatX 0xE#4 x 0xA1#8
  | .ldVxDT x => formatX 0xF#4 x 0x07#8
  | .ldVxK x => formatX 0xF#4 x 0x0A#8
  | .ldDTVx x => formatX 0xF#4 x 0x15#8
  | .ldSTVx x => formatX 0xF#4 x 0x18#8
  | .addI x => formatX 0xF#4 x 0x1E#8
  | .ldF x => formatX 0xF#4 x 0x29#8
  | .ldB x => formatX 0xF#4 x 0x33#8
  | .ldStore x => formatX 0xF#4 x 0x55#8
  | .ldLoad x => formatX 0xF#4 x 0x65#8

/-! The host's question about one word of spec/opcode_table.json. -/

/-- The high byte of a table word of `nbits` bits, the byte at the lower address; bits above `nbits` are 0. -/
def tableHighByte (nbits w : Nat) : Byte := BitVec.ofNat 8 (w % 2 ^ nbits / 256)

/-- The low byte of a table word of `nbits` bits, the byte at the higher address. -/
def tableLowByte (nbits w : Nat) : Byte := BitVec.ofNat 8 (w % 2 ^ nbits)

/-- What the decoder reads from an instruction whose bits are `w`, numbered as spec/opcode_table.json numbers them:
the word laid out big-endian, then `decodeBytes`. -/
def decodeTableWord (nbits w : Nat) : Option Instr :=
  match decodeBytes [tableHighByte nbits w, tableLowByte nbits w] with
  | some (.instr i, _) => some i
  | some (.unknownOpcode _, _) => none
  | none => none

end Sys2Proof
end

