-- ==== Sys2Proof/Machine/Flags.lean ====
section
/-! DEFINITION. Every flag computation of the spec: the value `VF` gets (10_state.md R18), always exactly 0 or 1, from
the operands' integer values before any truncation (42_alu.md R89). -/

namespace Sys2Proof.Machine

/-- A flag as the byte `VF` holds: 1 or 0 (R18). -/
def flagByte (f : Bool) : Byte := if f then 0x01#8 else 0x00#8

/-- Carry of `a + b`: the exact sum exceeds 255 (R89, R96). -/
def carryOf (a b : Byte) : Bool := decide (a.toNat + b.toNat > 255)

/-- NOT borrow of `a - b`: the exact difference is not negative (R89, R97, R99). -/
def notBorrowOf (a b : Byte) : Bool := decide ((a.toNat : Int) - (b.toNat : Int) ≥ 0)

/-- The bit a right shift by one shifts out: `s[0]` (R98). -/
def shiftedOutRight (s : Byte) : Bool := s.getLsbD 0

/-- The bit a left shift by one shifts out: `s[7]` (R100). -/
def shiftedOutLeft (s : Byte) : Bool := s.getLsbD 7

end Sys2Proof.Machine
end

