-- ==== Sys2Proof/Config.lean ====
section
/-! DEFINITION. What an implementation fixes (00_scope.md R6) and the one free value of the model. The default
values stand in Sys2Proof/Machine/Defaults.lean. -/

namespace Sys2Proof

/-- `SHIFT_SOURCE` (42_alu.md R98): which register `SHR` and `SHL` shift. -/
inductive ShiftSource where
  | vx
  | vy
  deriving DecidableEq, Repr

/-- `SPRITE_EDGE` (43_display.md R103): what becomes of a sprite pixel past the right or bottom edge. -/
inductive SpriteEdge where
  | wrap
  | clip
  deriving DecidableEq, Repr

/-- `KEY_INDEX_POLICY` (45_timers_keys.md R116): what `SKP` and `SKNP` do with a register value above 0xF. -/
inductive KeyIndexPolicy where
  | mask
  | fault
  deriving DecidableEq, Repr

/-- `LOW_MEMORY_WRITE` (20_memory.md R48): whether a write below 0x200 is plain RAM or faults. -/
inductive LowMemoryWrite where
  | ram
  | fault
  deriving DecidableEq, Repr

/-- The 80 bytes of the font region (20_memory.md R43), address 0x000 first. -/
abbrev Font := Vector Byte 80

/-- The implementation parameters of 00_scope.md R6 and the font of 20_memory.md R43. A machine's parameters
never change; State holds them as plain data so that every claim about all states is a claim about all
parameter values (assumption log 4, DESIGN CHOICE, safe). -/
structure Config where
  shiftSource    : ShiftSource
  spriteEdge     : SpriteEdge
  keyIndexPolicy : KeyIndexPolicy
  lowMemoryWrite : LowMemoryWrite
  font           : Font
  deriving DecidableEq, Repr

/-- The free value: the `rnd` input of a cycle whose inputs the host's list does not give, one for each value of
the counter `State.draws`. 42_alu.md R101: "any of the 256 values, under no law". It has no body, so no proof can
rest on what it is (assumption log 3, DESIGN CHOICE, safe). -/
opaque Config.freeRnd : Nat → Byte

end Sys2Proof
end

