-- ==== Sys2Proof/Machine/Defaults.lean ====
section
/-! DEFINITION. The default values of the implementation parameters (00_scope.md R6) and the default font
(20_memory.md R43). -/

namespace Sys2Proof.Machine

/-- The conventional font of 20_memory.md R43, five rows for each hex digit. The spec marks the bytes as general
knowledge, not in the source (decision D4; assumption log 5). -/
def defaultFont : Font := #v[
  0xF0, 0x90, 0x90, 0x90, 0xF0,
  0x20, 0x60, 0x20, 0x20, 0x70,
  0xF0, 0x10, 0xF0, 0x80, 0xF0,
  0xF0, 0x10, 0xF0, 0x10, 0xF0,
  0x90, 0x90, 0xF0, 0x10, 0x10,
  0xF0, 0x80, 0xF0, 0x10, 0xF0,
  0xF0, 0x80, 0xF0, 0x90, 0xF0,
  0xF0, 0x10, 0x20, 0x40, 0x40,
  0xF0, 0x90, 0xF0, 0x90, 0xF0,
  0xF0, 0x90, 0xF0, 0x10, 0xF0,
  0xF0, 0x90, 0xF0, 0x90, 0x90,
  0xE0, 0x90, 0xE0, 0x90, 0xE0,
  0xF0, 0x80, 0x80, 0x80, 0xF0,
  0xE0, 0x90, 0x90, 0x90, 0xE0,
  0xF0, 0x80, 0xF0, 0x80, 0xF0,
  0xF0, 0x80, 0xF0, 0x80, 0x80]

/-- The defaults of 00_scope.md R6: `SHIFT_SOURCE = VX`, `SPRITE_EDGE = WRAP`, `KEY_INDEX_POLICY = MASK`,
`LOW_MEMORY_WRITE = RAM`, and the font of R43. -/
def defaultConfig : Config where
  shiftSource := .vx
  spriteEdge := .wrap
  keyIndexPolicy := .mask
  lowMemoryWrite := .ram
  font := defaultFont

/-- The default of `tick_en` (40_execution_cycle.md R69): the source's Cycle Driver ticks on every cycle. It is the
input of a cycle whose inputs the host's list does not give (assumption log 2, DESIGN CHOICE, unsafe). -/
def defaultTickEn : Bool := true

end Sys2Proof.Machine
end

