-- ==== Sys2Proof/Machine/Memory.lean ====
section
/-! DEFINITION. The 4096-byte memory (20_memory.md R40) as a list of (address, byte) pairs in one canonical form:
addresses strictly rising and below 4096, and no entry equal to what an unlisted address reads as. The operations
here are on addresses that the bound checks of Sys2Proof/Machine/Ops.lean have let through. -/

namespace Sys2Proof.Machine

/-- The bytes that differ from the reset contents, by rising address. -/
abbrev Memory := List Host.Cell

/-- What an unlisted address reads as: the reset contents of 20_memory.md R44, that is the font at 0x000..0x04F and
0x00 at every other address. -/
def Memory.unlisted (font : Font) (a : Nat) : Byte :=
  if h : a < 80 then font[a] else 0x00#8

/-- The listed byte of an address, if there is one. -/
def Memory.lookup : Memory → Nat → Option Byte
  | [], _ => none
  | (a, b) :: m, k => if a = k then some b else Memory.lookup m k

/-- The byte at an address. -/
def Memory.read (font : Font) (m : Memory) (a : Nat) : Byte :=
  (Memory.lookup m a).getD (Memory.unlisted font a)

/-- Lists a byte at an address, in its place by rising address. -/
def Memory.insert : Memory → Nat → Byte → Memory
  | [], k, v => [(k, v)]
  | (a, b) :: m, k, v =>
    if k < a then (k, v) :: (a, b) :: m
    else if k = a then (k, v) :: m
    else (a, b) :: Memory.insert m k v

/-- Removes every entry of an address. -/
def Memory.erase : Memory → Nat → Memory
  | [], _ => []
  | (a, b) :: m, k => if a = k then Memory.erase m k else (a, b) :: Memory.erase m k

/-- Writes one byte. Writing what the unlisted address reads as removes the entry, so that equal memories are equal
lists. -/
def Memory.write (font : Font) (m : Memory) (a : Nat) (v : Byte) : Memory :=
  if v = Memory.unlisted font a then Memory.erase m a else Memory.insert m a v

/-- Writes bytes at ascending addresses from `a` (20_memory.md R48, the second loop). -/
def Memory.writeList (font : Font) : Memory → Nat → List Byte → Memory
  | m, _, [] => m
  | m, a, b :: bs => Memory.writeList font (Memory.write font m a b) (a + 1) bs

/-- The canonical form. -/
abbrev Memory.wf (font : Font) (m : Memory) : Prop :=
  m.Pairwise (fun p q => p.1 < q.1) ∧ ∀ c ∈ m, c.1 < 4096 ∧ c.2 ≠ Memory.unlisted font c.1

end Sys2Proof.Machine
end

