-- ==== Sys2Proof/Machine/State.lean ====
section
/-! DEFINITION. All state the spec gives the machine (10_state.md, 20_memory.md, 45_timers_keys.md R111), as plain
data, its value after reset (70_reset_and_hazards.md R140), and the reasons a step can stop. -/

namespace Sys2Proof.Machine

/-- A fault record (60_exceptions.md R126), one constructor per kind of R125 that a cycle can raise, each with the
fields R125 gives that kind: `pc`, the address of the faulting instruction; `word`, the fetched word, absent for a
fetch fault; `addr`, the first failing address, an unbounded integer (R46); `value`, the register value. -/
inductive FaultRecord where
  /-- The fetched word matches no row (R64). -/
  | unknownOpcode (pc word : Word)
  /-- `CALL` with `SP = 16` (R81). -/
  | stackOverflow (pc word : Word)
  /-- `RET` with `SP = 0` (R82). -/
  | stackUnderflow (pc word : Word)
  /-- An address above 0xFFF, or a protected write below 0x200 (R46, R48). -/
  | memoryOutOfBounds (pc : Word) (word : Option Word) (addr : Nat)
  /-- `SKP` or `SKNP` under `KEY_INDEX_POLICY = FAULT` with a value above 0xF (R116). -/
  | keyOutOfRange (pc word : Word) (value : Byte)
  deriving DecidableEq, Repr

/-- The run state of the execution engine (10_state.md R35). -/
inductive Status where
  | running
  | awaitingKey (x : RegNum)
  | faulted (record : FaultRecord)
  deriving DecidableEq, Repr

/-- The inputs of one cycle (00_scope.md R6, 40_execution_cycle.md R68). -/
structure CycleInput where
  tickEn : Bool
  rnd    : Byte
  deriving DecidableEq, Repr

/-- The 64 x 32 grid of 1-bit pixels (10_state.md R30): 32 rows of 64 pixels, `fb[row][col]`, `true` for on. -/
abbrev Framebuffer := Vector (Vector Bool 64) 32

/-- The machine. The last two fields are the model's own: they hold what the host gives the coming cycles (assumption
log 2 and 3). -/
structure State where
  /-- `V0..VF` (R15); `VF` is the flag register (R18). -/
  v         : Vector Byte 16
  /-- The index register `I` (R20). -/
  i         : Word
  /-- The program counter (R22). -/
  pc        : Word
  /-- The number of addresses on the return stack, 0..16 (R25, R26). -/
  sp        : Fin 17
  /-- The return stack (R25). -/
  stack     : Vector Word 16
  /-- The delay timer (R28). -/
  dt        : Byte
  /-- The sound timer (R28). -/
  st        : Byte
  /-- The framebuffer (R30). -/
  fb        : Framebuffer
  /-- The redraw flag (R31). -/
  redraw    : Bool
  /-- The input pad register, `true` for pressed (R33). -/
  keys      : Vector Bool 16
  /-- The run state (R35). -/
  status    : Status
  /-- The memory (R40). -/
  mem       : Memory
  /-- The one-shot sound output of the last cycle (R110, R111). -/
  tonePulse : Bool
  /-- The implementation parameters, which nothing changes (00_scope.md R6). -/
  cfg       : Config
  /-- The inputs the host gives the coming cycles, oldest first (the model's own field). -/
  inputs    : List CycleInput
  /-- How many cycles took their inputs from the free value (the model's own field). -/
  draws     : Nat
  deriving DecidableEq, Repr

/-- Why a step stops with a fault: never. Every fatal condition of 60_exceptions.md R125 that a cycle can raise is
TAKEN, as R127 describes: the next state has `status = Faulted(rec)`. So this type has no constructor (assumption
log 1, DEDUCED, safe). -/
inductive Fault where
  deriving DecidableEq, Repr

/-- Why a step is refused. -/
inductive Refusal where
  /-- The instruction has no meaning in this model; raised by an arm of `exec` that gives it none. Safe: the machine
  stops. No arm of this model raises it. -/
  | notModelled (mnemonic : String)
  deriving DecidableEq, Repr

/-- The reset values of 70_reset_and_hazards.md R140 for a machine with the parameters `cfg`. Memory has nothing
listed: an unlisted address reads as its reset contents (R44). -/
def State.resetOf (cfg : Config) : State where
  v := Vector.replicate 16 0x00#8
  i := 0x0000#16
  pc := 0x0200#16
  sp := 0
  stack := Vector.replicate 16 0x0000#16
  dt := 0x00#8
  st := 0x00#8
  fb := Vector.replicate 32 (Vector.replicate 64 false)
  redraw := false
  keys := Vector.replicate 16 false
  status := .running
  mem := []
  tonePulse := false
  cfg := cfg
  inputs := []
  draws := 0

/-- The machine right after reset, with the default parameters (R6, R140). The values that only the spec's decision
D6 gives are named in assumption log 6, those of the model's own fields in log 7. -/
def State.reset : State := State.resetOf defaultConfig

end Sys2Proof.Machine
end

