-- ==== Sys2Proof/Machine/Ops.lean ====
section
/-! DEFINITION. The named operations over registers, memory, the return stack, the framebuffer and the timers, and
taking a fault. Every meaning is written over these. -/

namespace Sys2Proof.Machine

/-- What one step answers. -/
abbrev Result := Host.Outcome State Fault Refusal

/-! Registers (10_state.md R15, R20, R22, R28). -/

/-- `V[x]`. -/
def State.readV (s : State) (x : RegNum) : Byte := s.v[x.val]

/-- `V[x] <- b`. -/
def State.setV (s : State) (x : RegNum) (b : Byte) : State := { s with v := s.v.set x.val b }

/-- `VF <- flag`, the last register write of an instruction that sets a flag (R11, R18, R19). -/
def State.setFlag (s : State) (f : Bool) : State := s.setV 15 (flagByte f)

/-- `I <- w`. -/
def State.setI (s : State) (w : Word) : State := { s with i := w }

/-- `pc <- target`. -/
def State.setPc (s : State) (w : Word) : State := { s with pc := w }

/-- `DT <- b`. -/
def State.setDt (s : State) (b : Byte) : State := { s with dt := b }

/-- `ST <- b`. -/
def State.setSt (s : State) (b : Byte) : State := { s with st := b }

/-- The default advance, `pc <- PC + 2` (40_execution_cycle.md R74). An instruction executes only with `PC <= 0xFFE`
(R23), so the 16-bit sum never wraps in a cycle (assumption log 9, DEDUCED, safe). -/
def State.advance (s : State) : State := s.setPc (s.pc + 2#16)

/-- A conditional skip: `PC + 4` if the condition holds, else `PC + 2` (R74). -/
def State.skipIf (s : State) (c : Bool) : State := s.setPc (if c then s.pc + 4#16 else s.pc + 2#16)

/-- Registers from number `k` on, overwritten by `bytes` in order; there is none past `VF`. -/
def writeRegs : Vector Byte 16 → Nat → List Byte → Vector Byte 16
  | v, _, [] => v
  | v, k, b :: bs => writeRegs (v.setIfInBounds k b) (k + 1) bs

/-- `V[0], V[1], ... <- bytes`. -/
def State.setVs (s : State) (bytes : List Byte) : State := { s with v := writeRegs s.v 0 bytes }

/-- `V[0], ..., V[x]`. -/
def State.readVs (s : State) (x : RegNum) : List Byte := s.v.toList.take (x.val + 1)

/-! Status and faults. -/

/-- `status <- st`. -/
def State.setStatus (s : State) (st : Status) : State := { s with status := st }

/-- Taking a fault (60_exceptions.md R127): the whole effect of a raised fatal condition is `status <- Faulted(rec)`,
with `tone_pulse` 0. Nothing else changes: `PC` keeps the address of the faulting instruction, no handler is entered
and nothing is saved but the record. There is no return from a fault (R128); only the host's reset leaves it, which is
`hostReset`. -/
def State.raise (s : State) (record : FaultRecord) : State :=
  { s with status := .faulted record, tonePulse := false }

/-- Whether a fault has been taken. -/
def State.isFaulted (s : State) : Bool :=
  match s.status with
  | .running => false
  | .awaitingKey _ => false
  | .faulted _ => true

/-! Memory (20_memory.md R46, R47, R48). Addresses are unbounded integers. -/

/-- `mem[a]`. -/
def State.readByte (s : State) (a : Nat) : Byte := s.mem.read s.cfg.font a

/-- The first address of `a, a+1, ..., a+n-1` that an access may not touch. -/
def firstFailing (bad : Nat → Bool) (a n : Nat) : Option Nat :=
  ((List.range n).map (fun k => a + k)).find? bad

/-- The bound of R46 on a read. -/
def badRead (a : Nat) : Bool := decide (a > 0xFFF)

/-- The bound of R46 on a write, and under `LOW_MEMORY_WRITE = FAULT` the check of R48. -/
def badWrite (cfg : Config) (a : Nat) : Bool :=
  decide (a > 0xFFF) || (decide (cfg.lowMemoryWrite = .fault) && decide (a < 0x200))

/-- The bytes at `a, a+1, ..., a+n-1`. -/
def State.bytesAt (s : State) (a n : Nat) : List Byte := (List.range n).map (fun k => s.readByte (a + k))

/-- `MemRead(a, n)` (R47): the first failing address, or the `n` bytes in ascending order. -/
def State.memRead (s : State) (a n : Nat) : Except Nat (List Byte) :=
  match firstFailing badRead a n with
  | some bad => .error bad
  | none => .ok (s.bytesAt a n)

/-- The second loop of R48: every byte written, at ascending addresses. -/
def State.putBytes (s : State) (a : Nat) (bytes : List Byte) : State :=
  { s with mem := s.mem.writeList s.cfg.font a bytes }

/-- `MemWrite(a, n, v)` (R48): the first failing address, with nothing written, or the state with all bytes
written. -/
def State.memWrite (s : State) (a : Nat) (bytes : List Byte) : Except Nat State :=
  match firstFailing (badWrite s.cfg) a bytes.length with
  | some bad => .error bad
  | none => .ok (s.putBytes a bytes)

/-! The return stack (10_state.md R25, R26). -/

/-- Pushes a return address; none when `SP = 16`. -/
def State.push (s : State) (w : Word) : Option State :=
  if h : s.sp.val < 16 then
    some { s with stack := s.stack.set s.sp.val w, sp := ⟨s.sp.val + 1, by omega⟩ }
  else none

/-- Pops the top return address; none when `SP = 0`. The popped entry keeps its content (R26). -/
def State.pop (s : State) : Option (Word × State) :=
  if h : 0 < s.sp.val then
    some (s.stack[s.sp.val - 1]'(by omega), { s with sp := ⟨s.sp.val - 1, by omega⟩ })
  else none

/-! Framebuffer (10_state.md R30, R31). -/

/-- `fb[row][col]`. -/
def Framebuffer.pixel (fb : Framebuffer) (row : Fin 32) (col : Fin 64) : Bool := fb[row.val][col.val]

/-- `fb[row][col] <- fb[row][col] ^ 1`. -/
def Framebuffer.flip (fb : Framebuffer) (row : Fin 32) (col : Fin 64) : Framebuffer :=
  fb.set row.val (fb[row.val].set col.val (!fb[row.val][col.val]))

/-- All pixels off. -/
def Framebuffer.blank : Framebuffer := Vector.replicate 32 (Vector.replicate 64 false)

/-- The framebuffer after a draw or a clear, with `redraw <- 1` (R31). -/
def State.setDisplay (s : State) (fb : Framebuffer) : State := { s with fb := fb, redraw := true }

/-! Keys (10_state.md R33). -/

/-- `keys[k]`. -/
def State.key (s : State) (k : RegNum) : Bool := s.keys[k.val]

/-- `min { k | keys[k] = 1 }` (45_timers_keys.md R119). -/
def State.lowestKey (s : State) : Option RegNum := (List.finRange 16).find? s.key

/-! Timers and sound outputs (45_timers_keys.md R110, R111). -/

/-- One countdown step of a timer, which stays at 0. -/
def countDown (t : Byte) : Byte := if t.toNat > 0 then t - 1#8 else t

/-- `tone_active = (ST > 0)`. -/
def State.toneActive (s : State) : Bool := decide (s.st.toNat > 0)

/-- The tick (R110): `tone_pulse` from `ST` before the decrement, then both timers. -/
def State.tick (s : State) : State :=
  { s with tonePulse := decide (s.st.toNat = 1), dt := countDown s.dt, st := countDown s.st }

/-- A cycle without a tick gives no pulse (R110). -/
def State.quiet (s : State) : State := { s with tonePulse := false }

/-! The inputs of a cycle (40_execution_cycle.md R68; assumption log 2 and 3). -/

/-- The inputs of the cycle about to run: the host's, where its list gives them, else the default `tick_en` and a free
`rnd`. -/
def State.input (s : State) : CycleInput :=
  match s.inputs with
  | c :: _ => c
  | [] => { tickEn := defaultTickEn, rnd := Config.freeRnd s.draws }

/-- The inputs of this cycle are spent. -/
def State.consumeInput (s : State) : State :=
  { s with inputs := s.inputs.tail, draws := if s.inputs = [] then s.draws + 1 else s.draws }

/-! The cycle around an instruction (40_execution_cycle.md). -/

/-- Fetch (R72): the first failing address of `PC, PC+1`, or the big-endian word there (R45). -/
def State.fetch (s : State) : Except Nat Word :=
  match firstFailing badRead s.pc.toNat 2 with
  | some bad => .error bad
  | none => .ok (wordOfBytes (s.readByte s.pc.toNat) (s.readByte (s.pc.toNat + 1)))

/-- The end of a cycle: no tick and no pulse after a fault (R75), else the tick if `tick_en` (R68), else `tone_pulse`
0 (R110). The inputs of the cycle are spent. -/
def State.endCycle (s : State) : State :=
  if s.isFaulted then s.consumeInput
  else if s.input.tickEn then s.tick.consumeInput
  else s.quiet.consumeInput

/-- One cycle of a key wait (45_timers_keys.md R120), before the tick. It fetches and decodes nothing. -/
def State.keyWaitStep (s : State) (x : RegNum) : State :=
  match s.lowestKey with
  | some k => ((s.setV x (BitVec.ofNat 8 k.val)).advance).setStatus .running
  | none => s

end Sys2Proof.Machine
end

