-- ==== Sys2Proof/Machine/Operands.lean ====
section
/-! DEFINITION. The operand forms of the spec that are more than a register read: the shift source, a key number taken
from a register, the font glyph of a digit, decimal digits, and the pixels of a sprite. -/

namespace Sys2Proof.Machine

/-- The source value of `SHR` and `SHL` (42_alu.md R98, R100): `V[x]`, or `V[y]` under `SHIFT_SOURCE = VY`. -/
def State.shiftOperand (s : State) (x y : RegNum) : Byte :=
  match s.cfg.shiftSource with
  | .vx => s.readV x
  | .vy => s.readV y

/-- The key number in a register value (45_timers_keys.md R116): the low nibble, or none, for `KeyOutOfRange`, under
`KEY_INDEX_POLICY = FAULT` with a value above 0xF. -/
def keyOf (policy : KeyIndexPolicy) (v : Byte) : Option RegNum :=
  match policy with
  | .mask => some (Fin.ofNat 16 v.toNat)
  | .fault => if v.toNat > 0xF then none else some (Fin.ofNat 16 v.toNat)

/-- The address of the glyph of the hex digit in a register value (46_index_system.md R123): `FONT_BASE + 5 * d` with
`d = v & 0xF` and `FONT_BASE = 0x000`. -/
def glyphAddress (v : Byte) : Word := BitVec.ofNat 16 (5 * (v.toNat % 16))

/-- The three decimal digits of a byte, hundreds first (44_memory_block.md R107). -/
def decimalDigits (v : Byte) : List Byte :=
  [BitVec.ofNat 8 (v.toNat / 100), BitVec.ofNat 8 (v.toNat / 10 % 10), BitVec.ofNat 8 (v.toNat % 10)]

/-! Sprites (43_display.md R102, R103). -/

/-- The column offsets of the 1 bits of a sprite row, bit 7 leftmost (R102). -/
def rowOffsets (b : Byte) : List Nat := (List.range 8).filter (fun c => b.getLsbD (7 - c))

/-- The (row offset, column offset) pairs of the 1 bits of a sprite whose first row has row offset `r`, in the order
of the loops of R104. -/
def spriteOffsets : (r : Nat) → List Byte → List (Nat × Nat)
  | _, [] => []
  | r, b :: bs => (rowOffsets b).map (fun c => (r, c)) ++ spriteOffsets (r + 1) bs

/-- Where the sprite pixel with the unbounded coordinates `row`, `col` lands (R103): on the opposite edge under `WRAP`,
nowhere under `CLIP` if past an edge. -/
def landing (edge : SpriteEdge) (row col : Nat) : Option (Fin 32 × Fin 64) :=
  match edge with
  | .wrap => some (Fin.ofNat 32 row, Fin.ofNat 64 col)
  | .clip => if h : row < 32 ∧ col < 64 then some (⟨row, h.1⟩, ⟨col, h.2⟩) else none

/-- The pixels a sprite at `(x0, y0)` touches, in order. -/
def spritePixels (edge : SpriteEdge) (x0 y0 : Nat) (rows : List Byte) : List (Fin 32 × Fin 64) :=
  (spriteOffsets 0 rows).filterMap (fun p => landing edge (y0 + p.1) (x0 + p.2))

/-- One step of the loops of R104 on (`fb`, `coll`): a set pixel about to be unset is a collision. -/
def xorPixel (acc : Framebuffer × Bool) (p : Fin 32 × Fin 64) : Framebuffer × Bool :=
  (acc.1.flip p.1 p.2, acc.2 || acc.1.pixel p.1 p.2)

/-- The loops of R104: the framebuffer and the collision flag after drawing a sprite. -/
def drawSprite (edge : SpriteEdge) (x0 y0 : Nat) (rows : List Byte) (fb : Framebuffer) : Framebuffer × Bool :=
  (spritePixels edge x0 y0 rows).foldl xorPixel (fb, false)

end Sys2Proof.Machine
end

