-- ==== Sys2Proof/Machine/Alu.lean ====
section
/-! DEFINITION. Load, arithmetic, logic, shift and random instructions (42_alu.md). Every result is written first and
`VF` last (00_scope.md R11), and every operand is read from the state before the instruction. -/

namespace Sys2Proof.Machine

/-- A result in `V[x]`, no flag, and the default advance. -/
def State.finishPlain (s : State) (x : RegNum) (result : Byte) : State := (s.setV x result).advance

/-- A result in `V[x]`, then the flag in `VF`, and the default advance (R11, R19). -/
def State.finishFlagged (s : State) (x : RegNum) (result : Byte) (flag : Bool) : State :=
  ((s.setV x result).setFlag flag).advance

/-- `LD Vx, byte` (R90). -/
def execLdImm (x : RegNum) (kk : Byte) (s : State) : Result := .next (s.finishPlain x kk)

/-- `ADD Vx, byte` (R91): no flag. -/
def execAddImm (x : RegNum) (kk : Byte) (s : State) : Result := .next (s.finishPlain x (s.readV x + kk))

/-- `LD Vx, Vy` (R92). -/
def execLdReg (x y : RegNum) (s : State) : Result := .next (s.finishPlain x (s.readV y))

/-- `OR Vx, Vy` (R93). -/
def execOrReg (x y : RegNum) (s : State) : Result := .next (s.finishPlain x (s.readV x ||| s.readV y))

/-- `AND Vx, Vy` (R94). -/
def execAndReg (x y : RegNum) (s : State) : Result := .next (s.finishPlain x (s.readV x &&& s.readV y))

/-- `XOR Vx, Vy` (R95). -/
def execXorReg (x y : RegNum) (s : State) : Result := .next (s.finishPlain x (s.readV x ^^^ s.readV y))

/-- `ADD Vx, Vy` (R96): carry in `VF`. -/
def execAddReg (x y : RegNum) (s : State) : Result :=
  .next (s.finishFlagged x (s.readV x + s.readV y) (carryOf (s.readV x) (s.readV y)))

/-- `SUB Vx, Vy` (R97): NOT borrow in `VF`. -/
def execSubReg (x y : RegNum) (s : State) : Result :=
  .next (s.finishFlagged x (s.readV x - s.readV y) (notBorrowOf (s.readV x) (s.readV y)))

/-- `SHR Vx, Vy` (R98): the bit shifted out in `VF`. -/
def execShr (x y : RegNum) (s : State) : Result :=
  .next (s.finishFlagged x (s.shiftOperand x y >>> 1) (shiftedOutRight (s.shiftOperand x y)))

/-- `SUBN Vx, Vy` (R99): `V[y] - V[x]`, NOT borrow in `VF`. -/
def execSubn (x y : RegNum) (s : State) : Result :=
  .next (s.finishFlagged x (s.readV y - s.readV x) (notBorrowOf (s.readV y) (s.readV x)))

/-- `SHL Vx, Vy` (R100): the bit shifted out in `VF`. -/
def execShl (x y : RegNum) (s : State) : Result :=
  .next (s.finishFlagged x (s.shiftOperand x y <<< 1) (shiftedOutLeft (s.shiftOperand x y)))

/-- `RND Vx, byte` (R101): the cycle's `rnd` input ANDed with the mask. -/
def execRnd (x : RegNum) (kk : Byte) (s : State) : Result := .next (s.finishPlain x (s.input.rnd &&& kk))

end Sys2Proof.Machine
end

