-- ==== Sys2Proof/Machine/ControlFlow.lean ====
section
/-! DEFINITION. The control flow instructions (41_control_flow.md). -/

namespace Sys2Proof.Machine

/-- `JP addr` (R80). -/
def execJp (nnn : Addr12) (s : State) : Result := .next (s.setPc (nnn.setWidth 16))

/-- `CALL addr` (R81): pushes `PC + 2`, or takes `StackOverflow`. -/
def execCall (nnn : Addr12) (s : State) : Result :=
  match s.push (s.pc + 2#16) with
  | some t => .next (t.setPc (nnn.setWidth 16))
  | none => .next (s.raise (.stackOverflow s.pc (encode (.call nnn))))

/-- `RET` (R82): jumps to the popped address, or takes `StackUnderflow`. -/
def execRet (s : State) : Result :=
  match s.pop with
  | some (target, t) => .next (t.setPc target)
  | none => .next (s.raise (.stackUnderflow s.pc (encode .ret)))

/-- `JP V0, addr` (R83): the sum is not reduced to 12 bits; 0xFFF + 0xFF fits in 16. -/
def execJpV0 (nnn : Addr12) (s : State) : Result :=
  .next (s.setPc (nnn.setWidth 16 + (s.readV 0).setWidth 16))

/-- `SE Vx, byte` (R84). -/
def execSeImm (x : RegNum) (kk : Byte) (s : State) : Result := .next (s.skipIf (s.readV x == kk))

/-- `SNE Vx, byte` (R85). -/
def execSneImm (x : RegNum) (kk : Byte) (s : State) : Result := .next (s.skipIf (s.readV x != kk))

/-- `SE Vx, Vy` (R86). -/
def execSeReg (x y : RegNum) (s : State) : Result := .next (s.skipIf (s.readV x == s.readV y))

/-- `SNE Vx, Vy` (R87). -/
def execSneReg (x y : RegNum) (s : State) : Result := .next (s.skipIf (s.readV x != s.readV y))

end Sys2Proof.Machine
end

