-- ==== Sys2Proof/Machine/Display.lean ====
section
/-! DEFINITION. The display instructions (43_display.md). -/

namespace Sys2Proof.Machine

/-- `DRW Vx, Vy, nibble` (R104; R105 is the case `n = 0`): the sprite bytes are read, with every check, before any
pixel, `redraw` or `VF` changes; `VF` is written last. -/
def execDrw (x y : RegNum) (n : Nibble) (s : State) : Result :=
  match s.memRead s.i.toNat n.toNat with
  | .error bad => .next (s.raise (.memoryOutOfBounds s.pc (some (encode (.drw x y n))) bad))
  | .ok rows =>
    let drawn := drawSprite s.cfg.spriteEdge ((s.readV x).toNat % 64) ((s.readV y).toNat % 32) rows s.fb
    .next (((s.setDisplay drawn.1).setFlag drawn.2).advance)

/-- `CLS` (R106). -/
def execCls (s : State) : Result := .next ((s.setDisplay Framebuffer.blank).advance)

end Sys2Proof.Machine
end

