-- ==== Sys2Proof/Machine/IndexSystem.lean ====
section
/-! DEFINITION. The index, font and system-call instructions (46_index_system.md). -/

namespace Sys2Proof.Machine

/-- `LD I, addr` (R121). -/
def execLdI (nnn : Addr12) (s : State) : Result := .next (s.setI (nnn.setWidth 16)).advance

/-- `ADD I, Vx` (R122): modulo 2^16, no flag, no fault. -/
def execAddI (x : RegNum) (s : State) : Result := .next (s.setI (s.i + (s.readV x).setWidth 16)).advance

/-- `LD F, Vx` (R123). -/
def execLdF (x : RegNum) (s : State) : Result := .next (s.setI (glyphAddress (s.readV x))).advance

/-- `SYS addr` (R124): a no-op; the address is ignored. -/
def execSys (_nnn : Addr12) (s : State) : Result := .next s.advance

end Sys2Proof.Machine
end

