-- ==== Sys2Proof/Machine/MemoryBlock.lean ====
section
/-! DEFINITION. The BCD and memory-block instructions (44_memory_block.md). `I` is never moved. -/

namespace Sys2Proof.Machine

/-- `LD B, Vx` (R107): the decimal digits of `V[x]` at `I, I+1, I+2`. -/
def execLdB (x : RegNum) (s : State) : Result :=
  match s.memWrite s.i.toNat (decimalDigits (s.readV x)) with
  | .error bad => .next (s.raise (.memoryOutOfBounds s.pc (some (encode (.ldB x))) bad))
  | .ok t => .next t.advance

/-- `LD [I], Vx` (R108): `V[0]..V[x]` at `I..I+x`. -/
def execLdStore (x : RegNum) (s : State) : Result :=
  match s.memWrite s.i.toNat (s.readVs x) with
  | .error bad => .next (s.raise (.memoryOutOfBounds s.pc (some (encode (.ldStore x))) bad))
  | .ok t => .next t.advance

/-- `LD Vx, [I]` (R109): `V[0]..V[x]` from `I..I+x`. -/
def execLdLoad (x : RegNum) (s : State) : Result :=
  match s.memRead s.i.toNat (x.val + 1) with
  | .error bad => .next (s.raise (.memoryOutOfBounds s.pc (some (encode (.ldLoad x))) bad))
  | .ok bytes => .next (s.setVs bytes).advance

end Sys2Proof.Machine
end

