-- ==== Sys2Proof/Machine/TimersKeys.lean ====
section
/-! DEFINITION. The timer and key instructions (45_timers_keys.md). -/

namespace Sys2Proof.Machine

/-- `LD Vx, DT` (R113): `DT` before this cycle's tick. -/
def execLdVxDT (x : RegNum) (s : State) : Result := .next (s.setV x s.dt).advance

/-- `LD DT, Vx` (R114). -/
def execLdDTVx (x : RegNum) (s : State) : Result := .next (s.setDt (s.readV x)).advance

/-- `LD ST, Vx` (R115). -/
def execLdSTVx (x : RegNum) (s : State) : Result := .next (s.setSt (s.readV x)).advance

/-- `SKP Vx` (R117). -/
def execSkp (x : RegNum) (s : State) : Result :=
  match keyOf s.cfg.keyIndexPolicy (s.readV x) with
  | some k => .next (s.skipIf (s.key k))
  | none => .next (s.raise (.keyOutOfRange s.pc (encode (.skp x)) (s.readV x)))

/-- `SKNP Vx` (R118). -/
def execSknp (x : RegNum) (s : State) : Result :=
  match keyOf s.cfg.keyIndexPolicy (s.readV x) with
  | some k => .next (s.skipIf (!s.key k))
  | none => .next (s.raise (.keyOutOfRange s.pc (encode (.sknp x)) (s.readV x)))

/-- `LD Vx, K` (R119): the lowest-numbered pressed key, or the key wait, with `PC` unchanged. The later cycles of the
wait are `State.keyWaitStep`. -/
def execLdVxK (x : RegNum) (s : State) : Result :=
  match s.lowestKey with
  | some k => .next (s.setV x (BitVec.ofNat 8 k.val)).advance
  | none => .next (s.setStatus (.awaitingKey x))

end Sys2Proof.Machine
end

