-- ==== Sys2Proof/Machine/Step.lean ====
section
/-! DEFINITION. One step is one cycle (40_execution_cycle.md R68). -/

namespace Sys2Proof.Machine

/-- The end of a cycle around an outcome: a next state gets its tick; a stop is passed on. -/
def finishCycle : Result → Result
  | .next t => .next t.endCycle
  | .fault f => .fault f
  | .refused r => .refused r

/-- The cycle of a machine that is `Running`: fetch, decode, execute, in this order of checks (R129). -/
def runningCycle (s : State) : Result :=
  match s.fetch with
  | .error bad => .next (s.raise (.memoryOutOfBounds s.pc none bad))
  | .ok w =>
    match decode w with
    | .unknownOpcode u => .next (s.raise (.unknownOpcode s.pc u))
    | .instr i => exec i s

/-- `cycle` (R68), with the inputs `s.input`. A faulted machine stays as it is (R76): only the inputs are spent. -/
def step (s : State) : Host.Outcome State Fault Refusal :=
  match s.status with
  | .faulted _ => .next s.consumeInput
  | .awaitingKey x => finishCycle (.next (s.keyWaitStep x))
  | .running => finishCycle (runningCycle s)

/-- The state with the table word `w` of `nbits` bits stored, big-endian, where the next step fetches: at `PC`. The
fetch needs a machine that is `Running` and a `PC` that two bytes can be read from; both hold at reset, and only where
one does not hold is it set (assumption log 13). -/
def State.withFetchWord (s : State) (nbits w : Nat) : State :=
  let ready : State := { s with status := .running, pc := if s.pc.toNat ≤ 0xFFE then s.pc else 0x0200#16 }
  ready.putBytes ready.pc.toNat [tableHighByte nbits w, tableLowByte nbits w]

end Sys2Proof.Machine
end

