-- ==== Sys2Proof/Machine/HostOps.lean ====
section
/-! DEFINITION. The host interface (60_exceptions.md R134): the only operations the host performs on the block, each
between cycles. -/

namespace Sys2Proof.Machine

/-- What `load` returns (70_reset_and_hazards.md R142). `ProgramTooLarge` is no cycle fault (R125). -/
inductive LoadResult where
  | ok
  | programTooLarge (offset len : Nat)
  deriving DecidableEq, Repr

/-- The host's operations, and no other (R134). -/
inductive HostOp where
  | reset
  | load (offset : Nat) (bytes : List Byte)
  | cycle (tickEn : Bool) (rnd : Byte)
  | setKey (k : RegNum) (pressed : Bool)
  | readDisplay
  | clearRedraw
  | readTone
  | inspect
  deriving DecidableEq, Repr

/-- What the host gets back (R134). `stopped` is the answer of a cycle that reports no status; no cycle of this model
gives it. -/
inductive HostReply where
  | nothing
  | loaded (r : LoadResult)
  | status (st : Status)
  | display (fb : Framebuffer) (redraw : Bool)
  | tone (active pulse : Bool)
  | state (s : State)
  | stopped
  deriving DecidableEq, Repr

/-- `reset()` (R140): every state element to its reset value. The parameters are the machine's and stay; the inputs the
host is yet to give are not the machine's state and stay too (assumption log 15). -/
def hostReset (s : State) : State := { State.resetOf s.cfg with inputs := s.inputs, draws := s.draws }

/-- `load(offset, bytes)` (R142): all bytes, or `ProgramTooLarge` with nothing changed. -/
def hostLoad (offset : Nat) (bytes : List Byte) (s : State) : LoadResult × State :=
  if offset + bytes.length > 4096 then (.programTooLarge offset bytes.length, s)
  else (.ok, s.putBytes offset bytes)

/-- `cycle(tick_en, rnd)` (40_execution_cycle.md R68). -/
def hostCycle (tickEn : Bool) (rnd : Byte) (s : State) : Result :=
  step { s with inputs := ⟨tickEn, rnd⟩ :: s.inputs }

/-- `set_key(k, pressed)` (R135). -/
def hostSetKey (k : RegNum) (pressed : Bool) (s : State) : State := { s with keys := s.keys.set k.val pressed }

/-- `read_display()` (R136): `fb` and `redraw`. -/
def hostReadDisplay (s : State) : Framebuffer × Bool := (s.fb, s.redraw)

/-- `clear_redraw()` (R136). -/
def hostClearRedraw (s : State) : State := { s with redraw := false }

/-- `read_tone()` (R111): `tone_active`, and `tone_pulse` of the last cycle. -/
def hostReadTone (s : State) : Bool × Bool := (s.toneActive, s.tonePulse)

/-- `inspect()` (R134): every state element. -/
def hostInspect (s : State) : State := s

/-- What a host operation leaves. -/
def hostApply (op : HostOp) (s : State) : Result :=
  match op with
  | .reset => .next (hostReset s)
  | .load offset bytes => .next (hostLoad offset bytes s).2
  | .cycle tickEn rnd => hostCycle tickEn rnd s
  | .setKey k pressed => .next (hostSetKey k pressed s)
  | .readDisplay => .next s
  | .clearRedraw => .next (hostClearRedraw s)
  | .readTone => .next s
  | .inspect => .next s

/-- The status a cycle reports (R68). -/
def reportOf : Result → HostReply
  | .next t => .status t.status
  | .fault _ => .stopped
  | .refused _ => .stopped

/-- What the host gets back. -/
def hostReply (op : HostOp) (s : State) : HostReply :=
  match op with
  | .reset => .nothing
  | .load offset bytes => .loaded (hostLoad offset bytes s).1
  | .cycle tickEn rnd => reportOf (hostCycle tickEn rnd s)
  | .setKey _ _ => .nothing
  | .readDisplay => .display (hostReadDisplay s).1 (hostReadDisplay s).2
  | .clearRedraw => .nothing
  | .readTone => .tone (hostReadTone s).1 (hostReadTone s).2
  | .inspect => .state (hostInspect s)

end Sys2Proof.Machine
end

