-- ==== Sys2Proof/Safety.lean ====
section
/-! DEFINITION. The terms claims use: what a safe state is, the invariant of the machine, and the frame of an
instruction. -/

namespace Sys2Proof.Machine

/-- A safe state: no fatal condition has been raised (60_exceptions.md R125). -/
def State.safe (s : State) : Prop := s.isFaulted = false

/-- The `pc` field of a fault record (60_exceptions.md R126). -/
def FaultRecord.pc : FaultRecord → Word
  | .unknownOpcode pc _ => pc
  | .stackOverflow pc _ => pc
  | .stackUnderflow pc _ => pc
  | .memoryOutOfBounds pc _ _ => pc
  | .keyOutOfRange pc _ _ => pc

/-- The `word` field of a fault record, absent for a fetch fault (60_exceptions.md R126). -/
def FaultRecord.word : FaultRecord → Option Word
  | .unknownOpcode _ w => some w
  | .stackOverflow _ w => some w
  | .stackUnderflow _ w => some w
  | .memoryOutOfBounds _ w _ => w
  | .keyOutOfRange _ w _ => some w

/-- The invariant of the machine: what every state that a run can reach satisfies. -/
structure State.Inv (s : State) : Prop where
  /-- Memory is in its canonical form. -/
  memory : s.mem.wf s.cfg.font
  /-- "`JP V0, addr` yields at most 0xFFF + 0xFF = 0x10FE", the largest `PC` (10_state.md R23). -/
  pcRange : s.pc.toNat ≤ 0x10FE
  /-- "A return address pushed by `CALL` is at most 0x1000" (R23). -/
  stackRange : ∀ j : Fin 16, s.stack[j.val].toNat ≤ 0x1000
  /-- A waiting machine's `PC` addresses its `Fx0A`, which was fetched (45_timers_keys.md R119). -/
  waitingPc : ∀ x, s.status = .awaitingKey x → s.pc.toNat ≤ 0xFFE
  /-- "`PC` keeps the address of the faulting instruction" (60_exceptions.md R127). -/
  faultPc : ∀ r, s.status = .faulted r → r.pc = s.pc
  /-- After a fault "`tone_pulse` is 0" (R127). -/
  faultQuiet : ∀ r, s.status = .faulted r → s.tonePulse = false

/-- What an instruction may change beside the program counter. -/
structure Writes where
  /-- The general registers written. -/
  regs    : List RegNum := []
  /-- Whether `I` is written. -/
  index   : Bool := false
  /-- Whether the return stack and `SP` are written. -/
  stack   : Bool := false
  /-- Whether `DT` is written. -/
  delay   : Bool := false
  /-- Whether `ST` is written. -/
  sound   : Bool := false
  /-- Whether the framebuffer and `redraw` are written. -/
  display : Bool := false
  /-- Whether `status` is written. -/
  status  : Bool := false
  /-- The first address stored to. -/
  base    : Nat := 0
  /-- How many bytes are stored, at ascending addresses from `base`. -/
  length  : Nat := 0

/-- The frame of an instruction: from `s` to `t` nothing changed but what `w` names and the program counter. Memory is
compared by reading every byte. -/
structure Frame (w : Writes) (s t : State) : Prop where
  regs      : ∀ r, r ∉ w.regs → t.readV r = s.readV r
  index     : w.index = false → t.i = s.i
  stack     : w.stack = false → t.stack = s.stack ∧ t.sp = s.sp
  delay     : w.delay = false → t.dt = s.dt
  sound     : w.sound = false → t.st = s.st
  display   : w.display = false → t.fb = s.fb ∧ t.redraw = s.redraw
  status    : w.status = false → t.status = s.status
  memory    : ∀ a, ¬(w.base ≤ a ∧ a < w.base + w.length) → t.readByte a = s.readByte a
  keys      : t.keys = s.keys
  tonePulse : t.tonePulse = s.tonePulse
  cfg       : t.cfg = s.cfg
  inputs    : t.inputs = s.inputs
  draws     : t.draws = s.draws

/-- A taken fault, as 60_exceptions.md R127 has it: the state before, with `status` the record and `tone_pulse` 0. -/
def faultedWith (s : State) (r : FaultRecord) : State := { s with status := .faulted r, tonePulse := false }

/-- An address a read may not touch (20_memory.md R46). -/
def unreadable (a : Nat) : Prop := a > 0xFFF

/-- An address a write may not touch: R46, and under `LOW_MEMORY_WRITE = FAULT` the check of R48. -/
def unwritable (s : State) (a : Nat) : Prop := a > 0xFFF ∨ (s.cfg.lowMemoryWrite = .fault ∧ a < 0x200)

/-- `bad` is the first of the `n` addresses from `a` that fails `p`: the address a fault record reports (R47, R48). -/
def firstOf (p : Nat → Prop) (a n bad : Nat) : Prop :=
  a ≤ bad ∧ bad < a + n ∧ p bad ∧ ∀ b, a ≤ b → b < bad → ¬p b

/-- None of the `n` addresses from `a` fails `p`. -/
def noneOf (p : Nat → Prop) (a n : Nat) : Prop := ∀ b, a ≤ b → b < a + n → ¬p b

/-- A 1 bit of the sprite of `n` rows at `I`, drawn at `(x0, y0)`, lands on the pixel (`row`, `col`) (43_display.md
R102, R103): the byte at `I + r` is row `r`, bit `7 - c` is column `c`; past an edge it lands on the opposite edge
under `WRAP` and nowhere under `CLIP`. -/
def spriteCovers (s : State) (x0 y0 n : Nat) (row : Fin 32) (col : Fin 64) : Prop :=
  ∃ r c, r < n ∧ c < 8 ∧ (s.readByte (s.i.toNat + r)).getLsbD (7 - c) = true ∧
    match s.cfg.spriteEdge with
    | .wrap => (y0 + r) % 32 = row.val ∧ (x0 + c) % 64 = col.val
    | .clip => y0 + r = row.val ∧ x0 + c = col.val

/-- What an instruction needs to raise no fatal condition (60_exceptions.md R125, 70_reset_and_hazards.md R146). -/
def fits (i : Instr) (s : State) : Prop :=
  match i with
  | .call _ => s.sp.val < 16
  | .ret => 0 < s.sp.val
  | .drw _ _ n => noneOf unreadable s.i.toNat n.toNat
  | .ldB _ => noneOf (unwritable s) s.i.toNat 3
  | .ldStore x => noneOf (unwritable s) s.i.toNat (x.val + 1)
  | .ldLoad x => noneOf unreadable s.i.toNat (x.val + 1)
  | .skp x => s.cfg.keyIndexPolicy = .fault → (s.readV x).toNat ≤ 0xF
  | .sknp x => s.cfg.keyIndexPolicy = .fault → (s.readV x).toNat ≤ 0xF
  | .sys _ => True
  | .cls => True
  | .jp _ => True
  | .seImm _ _ => True
  | .sneImm _ _ => True
  | .seReg _ _ => True
  | .ldImm _ _ => True
  | .addImm _ _ => True
  | .ldReg _ _ => True
  | .orReg _ _ => True
  | .andReg _ _ => True
  | .xorReg _ _ => True
  | .addReg _ _ => True
  | .subReg _ _ => True
  | .shr _ _ => True
  | .subn _ _ => True
  | .shl _ _ => True
  | .sneReg _ _ => True
  | .ldI _ => True
  | .jpV0 _ => True
  | .rnd _ _ => True
  | .ldVxDT _ => True
  | .ldVxK _ => True
  | .ldDTVx _ => True
  | .ldSTVx _ => True
  | .addI _ => True
  | .ldF _ => True

/-- The general registers an instruction may write (10_state.md R17), `VF` as a flag among them (R18). -/
def writesRegs (i : Instr) : List RegNum :=
  match i with
  | .ldImm x _ => [x]
  | .addImm x _ => [x]
  | .ldReg x _ => [x]
  | .orReg x _ => [x]
  | .andReg x _ => [x]
  | .xorReg x _ => [x]
  | .addReg x _ => [x, 15]
  | .subReg x _ => [x, 15]
  | .shr x _ => [x, 15]
  | .subn x _ => [x, 15]
  | .shl x _ => [x, 15]
  | .rnd x _ => [x]
  | .drw _ _ _ => [15]
  | .ldVxDT x => [x]
  | .ldVxK x => [x]
  | .ldLoad x => (List.finRange 16).filter (fun r => r ≤ x)
  | .sys _ => []
  | .cls => []
  | .ret => []
  | .jp _ => []
  | .call _ => []
  | .seImm _ _ => []
  | .sneImm _ _ => []
  | .seReg _ _ => []
  | .sneReg _ _ => []
  | .ldI _ => []
  | .jpV0 _ => []
  | .skp _ => []
  | .sknp _ => []
  | .ldDTVx _ => []
  | .ldSTVx _ => []
  | .addI _ => []
  | .ldF _ => []
  | .ldB _ => []
  | .ldStore _ => []

end Sys2Proof.Machine
end

