-- ==== Sys2Proof/Certificates/Slice0/Obligations.lean ====
section
/-! DEFINITION. The statements for the provers, from the spec's numbered rules. Each docstring names the rule it
formalises. A statement that rests on one of the spec's own decisions (92_eei_decisions.md) or inferences says which,
and has basis 'derived' in OBLIGATIONS.json. -/

open Sys2Proof
open Sys2Proof.Machine

/-! Encoding (30_encoding.md). -/

/-- One row of the opcode map (R60): `w & mask = match`, the excluded words, and the instruction with its fields read
from the word's number by the bit positions of R57. -/
structure Sys2Proof.OpcodeRow where
  pattern  : Word
  mask     : Word
  excluded : List Word
  build    : Nat → Instr

/-- "`w & mask = match`", and for `SYS` the exclusion (R60). -/
def Sys2Proof.OpcodeRow.selects (r : OpcodeRow) (w : Word) : Prop := w &&& r.mask = r.pattern ∧ w ∉ r.excluded

/-- `x = w[11:8]` of the word's number. -/
def Sys2Proof.mapX (w : Nat) : RegNum := Fin.ofNat 16 (w / 256)

/-- `y = w[7:4]` of the word's number. -/
def Sys2Proof.mapY (w : Nat) : RegNum := Fin.ofNat 16 (w / 16)

/-- `kk = w[7:0]` of the word's number. -/
def Sys2Proof.mapKK (w : Nat) : Byte := BitVec.ofNat 8 w

/-- `nnn = w[11:0]` of the word's number. -/
def Sys2Proof.mapNNN (w : Nat) : Addr12 := BitVec.ofNat 12 w

/-- The opcode map of R60, families 0x0 to 0x7. -/
def Sys2Proof.opcodeMapLow : List OpcodeRow :=
  [⟨0x0000, 0xF000, [0x00E0, 0x00EE], fun w => .sys (mapNNN w)⟩,
   ⟨0x00E0, 0xFFFF, [], fun _ => .cls⟩,
   ⟨0x00EE, 0xFFFF, [], fun _ => .ret⟩,
   ⟨0x1000, 0xF000, [], fun w => .jp (mapNNN w)⟩,
   ⟨0x2000, 0xF000, [], fun w => .call (mapNNN w)⟩,
   ⟨0x3000, 0xF000, [], fun w => .seImm (mapX w) (mapKK w)⟩,
   ⟨0x4000, 0xF000, [], fun w => .sneImm (mapX w) (mapKK w)⟩,
   ⟨0x5000, 0xF00F, [], fun w => .seReg (mapX w) (mapY w)⟩,
   ⟨0x6000, 0xF000, [], fun w => .ldImm (mapX w) (mapKK w)⟩,
   ⟨0x7000, 0xF000, [], fun w => .addImm (mapX w) (mapKK w)⟩]

/-- The opcode map of R60, families 0x8 and 0x9. -/
def Sys2Proof.opcodeMapMid : List OpcodeRow :=
  [⟨0x8000, 0xF00F, [], fun w => .ldReg (mapX w) (mapY w)⟩,
   ⟨0x8001, 0xF00F, [], fun w => .orReg (mapX w) (mapY w)⟩,
   ⟨0x8002, 0xF00F, [], fun w => .andReg (mapX w) (mapY w)⟩,
   ⟨0x8003, 0xF00F, [], fun w => .xorReg (mapX w) (mapY w)⟩,
   ⟨0x8004, 0xF00F, [], fun w => .addReg (mapX w) (mapY w)⟩,
   ⟨0x8005, 0xF00F, [], fun w => .subReg (mapX w) (mapY w)⟩,
   ⟨0x8006, 0xF00F, [], fun w => .shr (mapX w) (mapY w)⟩,
   ⟨0x8007, 0xF00F, [], fun w => .subn (mapX w) (mapY w)⟩,
   ⟨0x800E, 0xF00F, [], fun w => .shl (mapX w) (mapY w)⟩,
   ⟨0x9000, 0xF00F, [], fun w => .sneReg (mapX w) (mapY w)⟩]

/-- The opcode map of R60, families 0xA to 0xF. -/
def Sys2Proof.opcodeMapHigh : List OpcodeRow :=
  [⟨0xA000, 0xF000, [], fun w => .ldI (mapNNN w)⟩,
   ⟨0xB000, 0xF000, [], fun w => .jpV0 (mapNNN w)⟩,
   ⟨0xC000, 0xF000, [], fun w => .rnd (mapX w) (mapKK w)⟩,
   ⟨0xD000, 0xF000, [], fun w => .drw (mapX w) (mapY w) (BitVec.ofNat 4 w)⟩,
   ⟨0xE09E, 0xF0FF, [], fun w => .skp (mapX w)⟩,
   ⟨0xE0A1, 0xF0FF, [], fun w => .sknp (mapX w)⟩,
   ⟨0xF007, 0xF0FF, [], fun w => .ldVxDT (mapX w)⟩,
   ⟨0xF00A, 0xF0FF, [], fun w => .ldVxK (mapX w)⟩,
   ⟨0xF015, 0xF0FF, [], fun w => .ldDTVx (mapX w)⟩,
   ⟨0xF018, 0xF0FF, [], fun w => .ldSTVx (mapX w)⟩,
   ⟨0xF01E, 0xF0FF, [], fun w => .addI (mapX w)⟩,
   ⟨0xF029, 0xF0FF, [], fun w => .ldF (mapX w)⟩,
   ⟨0xF033, 0xF0FF, [], fun w => .ldB (mapX w)⟩,
   ⟨0xF055, 0xF0FF, [], fun w => .ldStore (mapX w)⟩,
   ⟨0xF065, 0xF0FF, [], fun w => .ldLoad (mapX w)⟩]

/-- The opcode map of R60, all 35 rows. -/
def Sys2Proof.opcodeMap : List OpcodeRow := opcodeMapLow ++ opcodeMapMid ++ opcodeMapHigh

/-- Decoding the word of any well-formed instruction gives that instruction: no bit of an encoding is dropped. The
encodings are the spec's general knowledge (log entry 16). -/
def Obligations.DecodeOfEncodeIsTheInstruction : Prop :=
  ∀ i : Instr, i.wellFormed = true → decode (encode i) = .instr i

/-- Each word has one meaning: a word that decodes to an instruction is the word of that instruction, which is
well-formed. The encodings are the spec's general knowledge (log entry 16). -/
def Obligations.EncodeOfDecodeIsTheWord : Prop :=
  ∀ (w : Word) (i : Instr), decode w = .instr i → i.wellFormed = true ∧ encode i = w

/-- The decoder is the opcode map of R60: a row that selects a word gives its instruction, a word that no row selects
is `UnknownOpcode`, and no word matches two rows. The patterns are the spec's general knowledge, its decisions D3 and
D28 (log entry 16). -/
def Obligations.DecoderFollowsTheOpcodeMap : Prop :=
  (∀ (w : Word) (r : OpcodeRow), r ∈ opcodeMap → r.selects w → decode w = .instr (r.build w.toNat)) ∧
  (∀ w : Word, (∀ r ∈ opcodeMap, ¬r.selects w) → decode w = .unknownOpcode w) ∧
  opcodeMap.Pairwise (fun r r' => ∀ w : Word, ¬(r.selects w ∧ r'.selects w))

/-- The illegal words are exactly those of the table of R64, by family and second-dispatch field. The spec's decision
D27 (log entry 16). -/
def Obligations.IllegalWordsAreExactlyTheListed : Prop :=
  ∀ w : Word, decode w = .unknownOpcode w ↔
    (w.toNat / 4096 = 0x5 ∧ w.toNat % 16 ≠ 0) ∨
    (w.toNat / 4096 = 0x8 ∧ w.toNat % 16 ∈ [0x8, 0x9, 0xA, 0xB, 0xC, 0xD, 0xF]) ∨
    (w.toNat / 4096 = 0x9 ∧ w.toNat % 16 ≠ 0) ∨
    (w.toNat / 4096 = 0xE ∧ w.toNat % 256 ∉ [0x9E, 0xA1]) ∨
    (w.toNat / 4096 = 0xF ∧
      w.toNat % 256 ∉ [0x07, 0x0A, 0x15, 0x18, 0x1E, 0x29, 0x33, 0x55, 0x65])

/-- Words written out from the encodings of R60, one per family, decode to what 95_test_vectors.md L1.1 lists. The
encodings are the spec's general knowledge (log entry 16). -/
def Obligations.SampleWordsOfEachFamilyDecode : Prop :=
  decode 0x2ABC#16 = .instr (.call 0xABC#12) ∧ decode 0x8AB6#16 = .instr (.shr 0xA 0xB) ∧
  decode 0xDAB5#16 = .instr (.drw 0xA 0xB 0x5#4) ∧ decode 0xFA55#16 = .instr (.ldStore 0xA) ∧
  decode 0xEAA1#16 = .instr (.sknp 0xA) ∧ decode 0xFA29#16 = .instr (.ldF 0xA) ∧
  decode 0x00EE#16 = .instr .ret ∧ decode 0x0123#16 = .instr (.sys 0x123#12) ∧
  decode 0x9AB1#16 = .unknownOpcode 0x9AB1#16

/-! Control flow (41_control_flow.md). -/

/-- R80. -/
def Obligations.JumpGoesToItsAddress : Prop :=
  ∀ (nnn : Addr12) (s : State),
    ∃ t, exec (.jp nnn) s = .next t ∧ t.pc.toNat = nnn.toNat ∧ Frame {} s t

/-- R81: `PC + 2` is pushed and `PC` goes to `nnn`; with 16 addresses on the stack, `StackOverflow` and no other
change (R127, with the spec's decision D19 for what a taken fault changes and D30 for the record (log entries 1 and
22) and the word as the instruction's encoding (log entry 10)). -/
def Obligations.CallPushesTheReturnAddressOrOverflows : Prop :=
  ∀ (nnn : Addr12) (s : State),
    (s.sp.val < 16 → ∃ t, exec (.call nnn) s = .next t ∧ t.sp.val = s.sp.val + 1 ∧
      (∀ j : Fin 16, t.stack[j.val] = if j.val = s.sp.val then s.pc + 2#16 else s.stack[j.val]) ∧
      t.pc.toNat = nnn.toNat ∧ Frame { stack := true } s t) ∧
    (s.sp.val = 16 →
      exec (.call nnn) s = .next (faultedWith s (.stackOverflow s.pc (encode (.call nnn)))))

/-- R82: `RET` jumps to the top entry, which stays in place (the spec's decision D31, log entry 22); with an empty
stack, `StackUnderflow` and no other change (R127, with the spec's decision D19 for what a taken fault changes and D30
for the record (log entries 1 and 22) and the word as the instruction's encoding (log entry 10)). -/
def Obligations.ReturnPopsTheTargetOrUnderflows : Prop :=
  ∀ s : State,
    (∀ j : Fin 16, s.sp.val = j.val + 1 → ∃ t, exec .ret s = .next t ∧ t.sp.val = j.val ∧
      t.stack = s.stack ∧ t.pc = s.stack[j.val] ∧ Frame { stack := true } s t) ∧
    (s.sp.val = 0 → exec .ret s = .next (faultedWith s (.stackUnderflow s.pc (encode .ret))))

/-- After a `CALL` that does not overflow, a `RET` at the target comes back to the address after the `CALL`, with the
stack pointer of before (the source's case in R82). -/
def Obligations.ReturnUndoesCall : Prop :=
  ∀ (nnn : Addr12) (s t u : State), s.sp.val < 16 → exec (.call nnn) s = .next t → exec .ret t = .next u →
    u.pc = s.pc + 2#16 ∧ u.sp = s.sp ∧ ∀ j : Fin 16, j.val < s.sp.val → u.stack[j.val] = s.stack[j.val]

/-- R83, with the spec's decision D20 (log entry 24): the sum is neither wrapped nor masked to 12 bits. -/
def Obligations.IndexedJumpAddsV0 : Prop :=
  ∀ (nnn : Addr12) (s : State),
    ∃ t, exec (.jpV0 nnn) s = .next t ∧ t.pc.toNat = nnn.toNat + (s.readV 0).toNat ∧ Frame {} s t

/-- R84, R85: `PC + 4` if the condition on `V[x]` and `kk` holds, else `PC + 2`. -/
def Obligations.SkipsOnImmediate : Prop :=
  ∀ (x : RegNum) (kk : Byte) (s : State),
    (∃ t, exec (.seImm x kk) s = .next t ∧
      t.pc = (if s.readV x = kk then s.pc + 4#16 else s.pc + 2#16) ∧ Frame {} s t) ∧
    (∃ t, exec (.sneImm x kk) s = .next t ∧
      t.pc = (if s.readV x = kk then s.pc + 2#16 else s.pc + 4#16) ∧ Frame {} s t)

/-- R86, R87: `PC + 4` if the condition on `V[x]` and `V[y]` holds, else `PC + 2`. -/
def Obligations.SkipsOnRegisters : Prop :=
  ∀ (x y : RegNum) (s : State),
    (∃ t, exec (.seReg x y) s = .next t ∧
      t.pc = (if s.readV x = s.readV y then s.pc + 4#16 else s.pc + 2#16) ∧ Frame {} s t) ∧
    (∃ t, exec (.sneReg x y) s = .next t ∧
      t.pc = (if s.readV x = s.readV y then s.pc + 2#16 else s.pc + 4#16) ∧ Frame {} s t)

/-! Load, arithmetic, logic, shift, random (42_alu.md). -/

/-- R90, R92. -/
def Obligations.RegisterLoadsWriteTheDestination : Prop :=
  ∀ (x y : RegNum) (kk : Byte) (s : State),
    (∃ t, exec (.ldImm x kk) s = .next t ∧ t.readV x = kk ∧ t.pc = s.pc + 2#16 ∧ Frame { regs := [x] } s t) ∧
    (∃ t, exec (.ldReg x y) s = .next t ∧ t.readV x = s.readV y ∧ t.pc = s.pc + 2#16 ∧
      Frame { regs := [x] } s t)

/-- R91, with the spec's decision D13 (log entry 19): the sum wraps and `VF` is no flag here. -/
def Obligations.AddImmediateWrapsWithoutFlag : Prop :=
  ∀ (x : RegNum) (kk : Byte) (s : State),
    ∃ t, exec (.addImm x kk) s = .next t ∧ (t.readV x).toNat = ((s.readV x).toNat + kk.toNat) % 256 ∧
      t.pc = s.pc + 2#16 ∧ Frame { regs := [x] } s t

/-- R93, R94, R95, bit by bit, with the spec's decision D12 (log entry 19): `VF` is no flag here. -/
def Obligations.LogicWorksBitByBitWithoutFlag : Prop :=
  ∀ (x y : RegNum) (s : State),
    (∃ t, exec (.orReg x y) s = .next t ∧
      (∀ b, (t.readV x).getLsbD b = ((s.readV x).getLsbD b || (s.readV y).getLsbD b)) ∧
      t.pc = s.pc + 2#16 ∧ Frame { regs := [x] } s t) ∧
    (∃ t, exec (.andReg x y) s = .next t ∧
      (∀ b, (t.readV x).getLsbD b = ((s.readV x).getLsbD b && (s.readV y).getLsbD b)) ∧
      t.pc = s.pc + 2#16 ∧ Frame { regs := [x] } s t) ∧
    (∃ t, exec (.xorReg x y) s = .next t ∧
      (∀ b, (t.readV x).getLsbD b = ((s.readV x).getLsbD b ^^ (s.readV y).getLsbD b)) ∧
      t.pc = s.pc + 2#16 ∧ Frame { regs := [x] } s t)

/-- R96: the sum modulo 256 in `V[x]`, then the carry in `VF`, which is what `VF` holds also when `x` is 15. -/
def Obligations.AddRegistersWritesSumThenCarry : Prop :=
  ∀ (x y : RegNum) (s : State),
    ∃ t, exec (.addReg x y) s = .next t ∧
      (x ≠ 15 → (t.readV x).toNat = ((s.readV x).toNat + (s.readV y).toNat) % 256) ∧
      (t.readV 15).toNat = (if (s.readV x).toNat + (s.readV y).toNat > 255 then 1 else 0) ∧
      t.pc = s.pc + 2#16 ∧ Frame { regs := [x, 15] } s t

/-- R97, R99: the difference modulo 256 in `V[x]`, then NOT borrow in `VF`, also when `x` is 15. -/
def Obligations.SubtractionsWriteDifferenceThenNotBorrow : Prop :=
  ∀ (x y : RegNum) (s : State),
    (∃ t, exec (.subReg x y) s = .next t ∧
      (x ≠ 15 → ((t.readV x).toNat : Int) = (((s.readV x).toNat : Int) - (s.readV y).toNat) % 256) ∧
      (t.readV 15).toNat = (if (s.readV x).toNat ≥ (s.readV y).toNat then 1 else 0) ∧
      t.pc = s.pc + 2#16 ∧ Frame { regs := [x, 15] } s t) ∧
    (∃ t, exec (.subn x y) s = .next t ∧
      (x ≠ 15 → ((t.readV x).toNat : Int) = (((s.readV y).toNat : Int) - (s.readV x).toNat) % 256) ∧
      (t.readV 15).toNat = (if (s.readV y).toNat ≥ (s.readV x).toNat then 1 else 0) ∧
      t.pc = s.pc + 2#16 ∧ Frame { regs := [x, 15] } s t)

/-- R98, R100, for both values of `SHIFT_SOURCE` (the spec's decision D11, log entry 28): the source register `src` is
`x` or `y`, the result is written, then the bit shifted out in `VF`, also when `x` is 15. -/
def Obligations.ShiftsWriteResultThenBitShiftedOut : Prop :=
  ∀ (x y src : RegNum) (s : State),
    ((s.cfg.shiftSource = .vx ∧ src = x) ∨ (s.cfg.shiftSource = .vy ∧ src = y)) →
    (∃ t, exec (.shr x y) s = .next t ∧
      (x ≠ 15 → (t.readV x).toNat = (s.readV src).toNat / 2) ∧
      (t.readV 15).toNat = (s.readV src).toNat % 2 ∧
      t.pc = s.pc + 2#16 ∧ Frame { regs := [x, 15] } s t) ∧
    (∃ t, exec (.shl x y) s = .next t ∧
      (x ≠ 15 → (t.readV x).toNat = 2 * (s.readV src).toNat % 256) ∧
      (t.readV 15).toNat = (s.readV src).toNat / 128 ∧
      t.pc = s.pc + 2#16 ∧ Frame { regs := [x, 15] } s t)

/-- R101: the cycle's `rnd` input, whatever it is, ANDed with the mask. That it is any value is the spec's decision
D25; where it is held is the model's choice (log entries 2 and 3). -/
def Obligations.RandomMasksTheCyclesInput : Prop :=
  ∀ (x : RegNum) (kk : Byte) (s : State),
    ∃ t, exec (.rnd x kk) s = .next t ∧
      (∀ b, (t.readV x).getLsbD b = (s.input.rnd.getLsbD b && kk.getLsbD b)) ∧
      t.pc = s.pc + 2#16 ∧ Frame { regs := [x] } s t

/-- "Only `RND` reads `rnd`; in a cycle that executes another instruction, `rnd` is ignored" (R101): two cycles that
differ in `rnd` alone leave the same state unless the fetched word is a `RND`. How the inputs are held is the model's
choice (log entry 2). -/
def Obligations.OnlyRandomDependsOnRnd : Prop :=
  ∀ (s : State) (tickEn : Bool) (r r' : Byte),
    (∀ w x kk, s.status = .running → s.fetch = .ok w → decode w ≠ .instr (.rnd x kk)) →
    hostCycle tickEn r s = hostCycle tickEn r' s

/-- R18: each of the six instructions that set a flag leaves `VF` at exactly 0 or 1 where it does not fault. -/
def Obligations.FlagIsExactlyZeroOrOne : Prop :=
  ∀ (x y : RegNum) (n : Nibble) (s t : State), t.safe →
    (exec (.addReg x y) s = .next t ∨ exec (.subReg x y) s = .next t ∨ exec (.subn x y) s = .next t ∨
     exec (.shr x y) s = .next t ∨ exec (.shl x y) s = .next t ∨ exec (.drw x y n) s = .next t) →
    t.readV 15 = 0x00#8 ∨ t.readV 15 = 0x01#8

/-! Display (43_display.md). -/

/-- R103, R104, for both values of `SPRITE_EDGE`, with the spec's decisions D5, D16 and D23 (log entries 17, 28 and
21): a covered pixel is flipped and any other is kept; `VF` is 1 exactly if a covered pixel was set; `redraw` is set.
Where a sprite byte lies above 0xFFF, `MemoryOutOfBounds` with the first failing address and no other change (R126,
R127, with the spec's decision D19 for what a taken fault changes and D30 for the record, log entries 1 and 22, and
the word as the instruction's encoding, log entry 10). -/
def Obligations.DrawXorsTheSpriteOrFaults : Prop :=
  ∀ (x y : RegNum) (n : Nibble) (s : State) (x0 y0 : Nat),
    x0 = (s.readV x).toNat % 64 → y0 = (s.readV y).toNat % 32 →
    (noneOf unreadable s.i.toNat n.toNat → ∃ t, exec (.drw x y n) s = .next t ∧
      (∀ row col, spriteCovers s x0 y0 n.toNat row col → t.fb.pixel row col = !s.fb.pixel row col) ∧
      (∀ row col, ¬spriteCovers s x0 y0 n.toNat row col → t.fb.pixel row col = s.fb.pixel row col) ∧
      ((∃ row col, spriteCovers s x0 y0 n.toNat row col ∧ s.fb.pixel row col = true) → t.readV 15 = 0x01#8) ∧
      ((∀ row col, spriteCovers s x0 y0 n.toNat row col → s.fb.pixel row col = false) → t.readV 15 = 0x00#8) ∧
      t.redraw = true ∧ t.pc = s.pc + 2#16 ∧ Frame { regs := [15], display := true } s t) ∧
    (∀ bad, firstOf unreadable s.i.toNat n.toNat bad →
      exec (.drw x y n) s = .next (faultedWith s (.memoryOutOfBounds s.pc (some (encode (.drw x y n))) bad)))

/-- R105, with the spec's decision D17 (log entry 21): zero rows cannot fault, whatever `I` holds, and draw nothing.
-/
def Obligations.DrawOfZeroRowsOnlyClearsTheFlag : Prop :=
  ∀ (x y : RegNum) (s : State),
    ∃ t, exec (.drw x y 0x0#4) s = .next t ∧ t.fb = s.fb ∧ t.readV 15 = 0x00#8 ∧ t.redraw = true ∧
      t.pc = s.pc + 2#16 ∧ Frame { regs := [15], display := true } s t

/-- Drawing the same sprite twice at the same coordinates restores the framebuffer, and the second draw reports a
collision exactly if the first one set a pixel (the source's case in R104, for any sprite and framebuffer). -/
def Obligations.DrawingTwiceRestoresTheDisplay : Prop :=
  ∀ (x y : RegNum) (n : Nibble) (s t u : State),
    noneOf unreadable s.i.toNat n.toNat → exec (.drw x y n) s = .next t → exec (.drw x y n) t = .next u →
    (t.readV x).toNat % 64 = (s.readV x).toNat % 64 → (t.readV y).toNat % 32 = (s.readV y).toNat % 32 →
    u.fb = s.fb ∧
    (u.readV 15 = 0x01#8 ↔ ∃ row col, t.fb.pixel row col = true ∧ s.fb.pixel row col = false)

/-- R106. -/
def Obligations.ClearTurnsEveryPixelOff : Prop :=
  ∀ s : State,
    ∃ t, exec .cls s = .next t ∧ (∀ row col, t.fb.pixel row col = false) ∧ t.redraw = true ∧
      t.pc = s.pc + 2#16 ∧ Frame { display := true } s t

/-! BCD and memory block (44_memory_block.md). -/

/-- R107: the hundreds, tens and ones of `V[x]` at `I`, `I+1`, `I+2`, in the order the spec marks as general knowledge
(log entry 17); where one of them may not be written (R46, R48; the protected low memory is the spec's decision D21,
log entry 28), `MemoryOutOfBounds` with the first failing address and nothing written (D18; R127, with the spec's
decision D19 for what a taken fault changes and D30 for the record (log entries 1 and 22) and the word as the
instruction's encoding (log entry 10)). -/
def Obligations.StoreDecimalDigitsOrFault : Prop :=
  ∀ (x : RegNum) (s : State),
    (noneOf (unwritable s) s.i.toNat 3 → ∃ t, exec (.ldB x) s = .next t ∧
      (t.readByte s.i.toNat).toNat = (s.readV x).toNat / 100 ∧
      (t.readByte (s.i.toNat + 1)).toNat = (s.readV x).toNat / 10 % 10 ∧
      (t.readByte (s.i.toNat + 2)).toNat = (s.readV x).toNat % 10 ∧
      t.pc = s.pc + 2#16 ∧ Frame { base := s.i.toNat, length := 3 } s t) ∧
    (∀ bad, firstOf (unwritable s) s.i.toNat 3 bad →
      exec (.ldB x) s = .next (faultedWith s (.memoryOutOfBounds s.pc (some (encode (.ldB x))) bad)))

/-- R108: `V[k]` at `I + k` for `k` in 0..x, `I` unchanged; where one of them may not be written (R46, R48; the
protected low memory is the spec's decision D21, log entry 28), the fault of the first failing address and nothing
written (D18; R127, with the spec's decision D19 for what a taken fault changes and D30 for the record (log entries 1
and 22) and the word as the instruction's encoding (log entry 10)). -/
def Obligations.StoreRegistersOrFault : Prop :=
  ∀ (x : RegNum) (s : State),
    (noneOf (unwritable s) s.i.toNat (x.val + 1) → ∃ t, exec (.ldStore x) s = .next t ∧
      (∀ k : RegNum, k.val ≤ x.val → t.readByte (s.i.toNat + k.val) = s.readV k) ∧
      t.pc = s.pc + 2#16 ∧ Frame { base := s.i.toNat, length := x.val + 1 } s t) ∧
    (∀ bad, firstOf (unwritable s) s.i.toNat (x.val + 1) bad →
      exec (.ldStore x) s = .next (faultedWith s (.memoryOutOfBounds s.pc (some (encode (.ldStore x))) bad)))

/-- R109: `V[k] <- mem[I + k]` for `k` in 0..x, `I` and the registers above `x` unchanged; or the fault of the first
failing address and no register written (R127, with the spec's decision D19 for what a taken fault changes and D30 for
the record (log entries 1 and 22) and the word as the instruction's encoding (log entry 10)). -/
def Obligations.LoadRegistersOrFault : Prop :=
  ∀ (x : RegNum) (s : State),
    (noneOf unreadable s.i.toNat (x.val + 1) → ∃ t, exec (.ldLoad x) s = .next t ∧
      (∀ k : RegNum, k.val ≤ x.val → t.readV k = s.readByte (s.i.toNat + k.val)) ∧
      t.pc = s.pc + 2#16 ∧ Frame { regs := (List.finRange 16).filter (fun k => k ≤ x) } s t) ∧
    (∀ bad, firstOf unreadable s.i.toNat (x.val + 1) bad →
      exec (.ldLoad x) s = .next (faultedWith s (.memoryOutOfBounds s.pc (some (encode (.ldLoad x))) bad)))

/-- Two bytes written by `LD [I], Vx` are fetched as a word with `V[0]` in the high byte (R45, R54; the spec's
decisions D2 and D26, log entries 16 and 27). -/
def Obligations.StoredBytesAreFetchedAtOnce : Prop :=
  ∀ (x : RegNum) (s t : State), 1 ≤ x.val → s.safe → exec (.ldStore x) s = .next t → t.safe →
    (t.setPc s.i).fetch = .ok (s.readV 0 ++ s.readV 1)

/-! Timers and keys (45_timers_keys.md). -/

/-- R113, R114, R115. -/
def Obligations.TimerTransfersMoveTheValue : Prop :=
  ∀ (x : RegNum) (s : State),
    (∃ t, exec (.ldVxDT x) s = .next t ∧ t.readV x = s.dt ∧ t.pc = s.pc + 2#16 ∧ Frame { regs := [x] } s t) ∧
    (∃ t, exec (.ldDTVx x) s = .next t ∧ t.dt = s.readV x ∧ t.pc = s.pc + 2#16 ∧ Frame { delay := true } s t) ∧
    (∃ t, exec (.ldSTVx x) s = .next t ∧ t.st = s.readV x ∧ t.pc = s.pc + 2#16 ∧ Frame { sound := true } s t)

/-- R116, R117, R118, for both values of `KEY_INDEX_POLICY` (the spec's decision D10, log entry 28): the skip by the
key of the low nibble; under `FAULT` a value above 0xF is `KeyOutOfRange` with no other change (R126, R127, with the
spec's decision D19 for what a taken fault changes and D30 for the record, log entries 1 and 22, and the word as the
instruction's encoding, log entry 10). -/
def Obligations.KeySkipsTestTheKeyOrFault : Prop :=
  ∀ (x k : RegNum) (s : State), k.val = (s.readV x).toNat % 16 →
    (s.cfg.keyIndexPolicy = .mask ∨ (s.readV x).toNat ≤ 0xF →
      (∃ t, exec (.skp x) s = .next t ∧
        t.pc = (if s.key k = true then s.pc + 4#16 else s.pc + 2#16) ∧ Frame {} s t) ∧
      (∃ t, exec (.sknp x) s = .next t ∧
        t.pc = (if s.key k = true then s.pc + 2#16 else s.pc + 4#16) ∧ Frame {} s t)) ∧
    (s.cfg.keyIndexPolicy = .fault ∧ (s.readV x).toNat > 0xF →
      exec (.skp x) s = .next (faultedWith s (.keyOutOfRange s.pc (encode (.skp x)) (s.readV x))) ∧
      exec (.sknp x) s = .next (faultedWith s (.keyOutOfRange s.pc (encode (.sknp x)) (s.readV x))))

/-- R119, with the spec's decision D9 (the lowest-numbered key, held or new; log entry 18): with a key pressed the
instruction completes; with none it leaves `AwaitingKey(x)` and `PC` as it was. -/
def Obligations.KeyReadStoresLowestKeyOrWaits : Prop :=
  ∀ (x : RegNum) (s : State),
    (∀ k : RegNum, s.key k = true → (∀ j, j < k → s.key j = false) →
      ∃ t, exec (.ldVxK x) s = .next t ∧ (t.readV x).toNat = k.val ∧ t.pc = s.pc + 2#16 ∧
        Frame { regs := [x] } s t) ∧
    ((∀ k, s.key k = false) →
      ∃ t, exec (.ldVxK x) s = .next t ∧ t.status = .awaitingKey x ∧ t.pc = s.pc ∧
        Frame { status := true } s t)

/-- R120, R77, with the spec's decisions D8 and D9 (log entries 23 and 18): a cycle of a key wait completes into the
saved register and `PC + 2` if a key is pressed, else changes nothing; either way the cycle then ends as any other,
with its tick. -/
def Obligations.KeyWaitCycleCompletesOrStays : Prop :=
  ∀ (x : RegNum) (s : State), s.status = .awaitingKey x →
    (∀ k : RegNum, s.key k = true → (∀ j, j < k → s.key j = false) →
      ∃ t, step s = .next t.endCycle ∧ (t.readV x).toNat = k.val ∧ t.pc = s.pc + 2#16 ∧ t.status = .running ∧
        Frame { regs := [x], status := true } s t) ∧
    ((∀ k, s.key k = false) → step s = .next s.endCycle)

/-- "Such a cycle has the same effect as executing the `Fx0A` word at `PC` again, if that word has not changed"
(R120): the waiting machine and the same machine `Running` step to the same state. An inference of the spec from R119,
with its decision D9 (log entry 18). -/
def Obligations.KeyWaitCycleEqualsExecutingTheWordAgain : Prop :=
  ∀ (x : RegNum) (s : State) (w : Word), s.status = .awaitingKey x → s.fetch = .ok w →
    decode w = .instr (.ldVxK x) → step s = step (s.setStatus .running)

/-! Index, font and system (46_index_system.md). -/

/-- R121: the 12-bit address, zero-extended. -/
def Obligations.LoadIndexZeroExtends : Prop :=
  ∀ (nnn : Addr12) (s : State),
    ∃ t, exec (.ldI nnn) s = .next t ∧ t.i.toNat = nnn.toNat ∧ t.pc = s.pc + 2#16 ∧ Frame { index := true } s t

/-- R122 and R123, with the spec's decisions D14 (modulo 2^16, no flag, no fault) and D15 (the low nibble), log
entries 19 and 20. -/
def Obligations.IndexArithmeticWrapsAndGlyphsLieInTheFont : Prop :=
  ∀ (x : RegNum) (s : State),
    (∃ t, exec (.addI x) s = .next t ∧ t.i.toNat = (s.i.toNat + (s.readV x).toNat) % 65536 ∧
      t.pc = s.pc + 2#16 ∧ Frame { index := true } s t) ∧
    (∃ t, exec (.ldF x) s = .next t ∧ t.i.toNat = 5 * ((s.readV x).toNat % 16) ∧ t.i.toNat + 4 ≤ 0x04F ∧
      t.pc = s.pc + 2#16 ∧ Frame { index := true } s t)

/-- R124: nothing but the default advance. -/
def Obligations.SystemCallIsANoOp : Prop :=
  ∀ (nnn : Addr12) (s : State), ∃ t, exec (.sys nnn) s = .next t ∧ t.pc = s.pc + 2#16 ∧ Frame {} s t

/-! The cycle (40_execution_cycle.md). -/

/-- A machine that is `Running` and whose bytes at `PC` decode to an instruction steps to that instruction's outcome,
with the end of the cycle applied to its next state (R68, R73). -/
def Obligations.StepExecutesTheDecodedInstruction : Prop :=
  ∀ (s : State) (i : Instr), s.status = .running → s.pc.toNat ≤ 0xFFE →
    decode (s.readByte s.pc.toNat ++ s.readByte (s.pc.toNat + 1)) = .instr i →
    step s = finishCycle (exec i s) ∧ ∀ t, exec i s = .next t → step s = .next t.endCycle

/-- R72: the big-endian word at `PC` (R45, which the spec marks as general knowledge and takes by its decision D2; log
entry 16), or the fault with the first failing address, which reads nothing. -/
def Obligations.FetchReadsTheWordOrFaults : Prop :=
  ∀ s : State,
    (s.pc.toNat + 1 ≤ 0xFFF → ∃ w, s.fetch = .ok w ∧
      w.toNat = 256 * (s.readByte s.pc.toNat).toNat + (s.readByte (s.pc.toNat + 1)).toNat) ∧
    (s.pc.toNat = 0xFFF → s.fetch = .error 0x1000) ∧
    (s.pc.toNat > 0xFFF → s.fetch = .error s.pc.toNat)

/-- A running machine that cannot fetch, or fetches an illegal word, takes `MemoryOutOfBounds` with no word or
`UnknownOpcode` with the word, with no other change and no tick (R68, R72, R75, R125; the spec's decisions D8 and D19,
log entries 1, 22 and 23). That the cycle's inputs are spent is the model's choice (log entries 2 and 3). -/
def Obligations.FetchAndDecodeFaultsChangeNothingElse : Prop :=
  ∀ s : State, s.status = .running →
    (∀ bad, s.fetch = .error bad → step s = .next (faultedWith s (.memoryOutOfBounds s.pc none bad)).consumeInput) ∧
    (∀ w, s.fetch = .ok w → decode w = .unknownOpcode w →
      step s = .next (faultedWith s (.unknownOpcode s.pc w)).consumeInput)

/-- R110: with `tick_en` a cycle without fault ends with `tone_pulse` from `ST` before the decrement (R111, the spec's
decision D24, log entry 26) and each timer one lower, never below 0; without `tick_en` no timer changes and there is
no pulse. Nothing else of the machine changes. That the cycle's inputs are spent is the model's choice (log entries 2
and 3). -/
def Obligations.TickCountsBothTimersDown : Prop :=
  ∀ s : State, s.safe →
    (s.input.tickEn = true →
      s.endCycle.dt.toNat = s.dt.toNat - 1 ∧ s.endCycle.st.toNat = s.st.toNat - 1 ∧
      (s.endCycle.tonePulse = true ↔ s.st.toNat = 1) ∧
      s.endCycle = { s with dt := s.endCycle.dt, st := s.endCycle.st, tonePulse := s.endCycle.tonePulse,
                            inputs := s.endCycle.inputs, draws := s.endCycle.draws }) ∧
    (s.input.tickEn = false →
      s.endCycle = { s with tonePulse := false, inputs := s.endCycle.inputs, draws := s.endCycle.draws })

/-- The timers decrement "monotonically to zero and staying there" (R110, an inference of the spec from the tick):
after `n` ticks each is its value minus `n`, and 0 from then on. -/
def Obligations.TicksDrainTheTimersToZero : Prop :=
  ∀ (n : Nat) (s : State),
    (State.tick^[n] s).dt.toNat = s.dt.toNat - n ∧ (State.tick^[n] s).st.toNat = s.st.toNat - n

/-- The inputs of a host `cycle(tick_en, rnd)` are those the step uses, with `rnd` read by `RND` and `tick_en`
deciding the tick (R68, R101, R110). That `inputs` and `draws` hold what the host gives, and come back to what they
were, is the model's choice (log entries 2 and 3, DESIGN CHOICE). -/
def Obligations.HostCycleUsesItsOwnInputs : Prop :=
  ∀ (tickEn : Bool) (r : Byte) (s : State),
    ∃ t, hostCycle tickEn r s = .next t ∧ t.inputs = s.inputs ∧ t.draws = s.draws ∧
      (s.status = .running → s.pc.toNat ≤ 0xFFE →
        ∀ x kk, decode (s.readByte s.pc.toNat ++ s.readByte (s.pc.toNat + 1)) = .instr (.rnd x kk) →
          t.readV x = r &&& kk ∧ t.dt.toNat = s.dt.toNat - (if tickEn then 1 else 0))

/-! Faults (60_exceptions.md). -/

/-- R127, R75, R126, with the spec's decisions D8, D19 and D30 (log entries 1, 22 and 23): a cycle that raises a fault
leaves the state of before, with `status` the record and `tone_pulse` 0; the record has the `PC` and the fetched word,
absent for a fetch fault. The clauses leave the model's own fields `inputs` and `draws` free (log entries 2 and 3). -/
def Obligations.FaultsArePrecise : Prop :=
  ∀ (s t : State) (r : FaultRecord), s.status = .running → step s = .next t → t.status = .faulted r →
    t = { faultedWith s r with inputs := t.inputs, draws := t.draws } ∧ r.pc = s.pc ∧
    (s.pc.toNat ≤ 0xFFE → r.word = some (s.readByte s.pc.toNat ++ s.readByte (s.pc.toNat + 1))) ∧
    (s.pc.toNat > 0xFFE → r.word = none)

/-- R76, R128, with the spec's decision D19 (log entry 22): a faulted machine steps to itself, its record kept. The
model's own fields `inputs` and `draws` are left free (log entries 2 and 3). -/
def Obligations.FaultedMachineNeverChanges : Prop :=
  ∀ (s : State) (r : FaultRecord), s.status = .faulted r →
    ∃ t, step s = .next t ∧ t = { s with inputs := t.inputs, draws := t.draws }

/-- R129, an inference of the spec: each instruction can raise only one kind of fault, and only those R125 lists for
it, where their condition holds: a read faults at an address above 0xFFF alone, a write also in protected low memory
(R46, R47, R48; the spec's decision D21, log entry 28), and the address is the first failing one of the access;
`KeyOutOfRange` is the spec's decision D10. The word is the instruction's encoding (log entry 10). -/
def Obligations.EachInstructionRaisesOnlyItsOwnFault : Prop :=
  ∀ (i : Instr) (s t : State) (r : FaultRecord), s.safe → exec i s = .next t → t.status = .faulted r →
    match r with
    | .unknownOpcode _ _ => False
    | .stackOverflow _ w => (∃ nnn, i = .call nnn) ∧ w = encode i ∧ s.sp.val = 16
    | .stackUnderflow _ w => i = .ret ∧ w = encode i ∧ s.sp.val = 0
    | .memoryOutOfBounds _ w a =>
      ((∃ x y n, i = .drw x y n ∧ firstOf unreadable s.i.toNat n.toNat a) ∨
       (∃ x, i = .ldB x ∧ firstOf (unwritable s) s.i.toNat 3 a) ∨
       (∃ x, i = .ldStore x ∧ firstOf (unwritable s) s.i.toNat (x.val + 1) a) ∨
       (∃ x, i = .ldLoad x ∧ firstOf unreadable s.i.toNat (x.val + 1) a)) ∧
      w = some (encode i)
    | .keyOutOfRange _ w v =>
      (∃ x, (i = .skp x ∨ i = .sknp x) ∧ v = s.readV x) ∧ w = encode i ∧ v.toNat > 0xF ∧
      s.cfg.keyIndexPolicy = .fault

/-- R146, an inference of the spec from R125: a running machine's cycle raises no fault exactly if `PC` is at or below
0xFFE, the word there is one of the opcode table, and the instruction stays within its bounds. The bounds that rest on
a parameter are its decisions D10 and D21 (log entry 28). -/
def Obligations.CycleIsSafeExactlyWithinBounds : Prop :=
  ∀ (s t : State), s.status = .running → step s = .next t →
    (t.safe ↔ s.pc.toNat ≤ 0xFFE ∧
      ∃ i, decode (s.readByte s.pc.toNat ++ s.readByte (s.pc.toNat + 1)) = .instr i ∧ fits i s)

/-! The whole machine. -/

/-- Every cycle leaves a next state: no step of the machine stops outside the spec's own `Faulted` state (R68). That a
taken fault is a next state is log entry 1. -/
def Obligations.EveryCycleLeavesAState : Prop := ∀ s : State, ∃ t, step s = .next t

/-- Every step keeps the invariant of the machine: canonical memory, the range of `PC` and of the return addresses
(R23, an inference of the spec), a waiting `PC`, and the precise fault (R127). The canonical form is the model's own
(log entry 12), and a taken fault's state is the spec's decision D19 (log entry 22). -/
def Obligations.StepKeepsTheInvariant : Prop :=
  ∀ s t : State, s.Inv → step s = .next t → t.Inv

/-- The reset state satisfies the invariant, and no fault has been taken (R140). The values at reset that the source
does not name are the spec's decision D6 (log entry 6), the memory's canonical form is the model's own (log entry 12).
-/
def Obligations.ResetSatisfiesTheInvariant : Prop := State.reset.Inv ∧ State.reset.safe

/-- Every host operation keeps the invariant of the machine (R134). The canonical form is the model's own (log entry
12), and a taken fault's state is the spec's decision D19 (log entry 22). A load between any two cycles is its
decision D22 (log entry 25). -/
def Obligations.HostOperationsKeepTheInvariant : Prop :=
  ∀ (op : HostOp) (s t : State), s.Inv → hostApply op s = .next t → t.Inv

/-- R17, R20, R25, R28, R30, R33, R35, R41, R111, as whole-machine rules: each kind of state is changed only by the
instructions the spec names for it. `status` changes only by `LD Vx, K`, to `AwaitingKey(x)` (R119), or by a taken
fault, and `tone_pulse` only by a taken fault (R127; the spec's decision D19, log entries 1 and 22). That no other
instruction writes `VF` as a flag is the spec's decisions D12 to D14 (log entry 19). -/
def Obligations.OnlyTheNamedInstructionsWriteEachState : Prop :=
  ∀ (i : Instr) (s t : State), exec i s = .next t →
    (∀ r, r ∉ writesRegs i → t.readV r = s.readV r) ∧
    ((∀ nnn x, i ≠ .ldI nnn ∧ i ≠ .addI x ∧ i ≠ .ldF x) → t.i = s.i) ∧
    ((∀ nnn, i ≠ .call nnn ∧ i ≠ .ret) → t.stack = s.stack ∧ t.sp = s.sp) ∧
    ((∀ x, i ≠ .ldDTVx x) → t.dt = s.dt) ∧
    ((∀ x, i ≠ .ldSTVx x) → t.st = s.st) ∧
    ((∀ x y n, i ≠ .drw x y n ∧ i ≠ .cls) → t.fb = s.fb ∧ t.redraw = s.redraw) ∧
    ((∀ x, i ≠ .ldB x ∧ i ≠ .ldStore x) → t.mem = s.mem) ∧
    (t.status = s.status ∨ (∃ x, i = .ldVxK x ∧ t.status = .awaitingKey x) ∨ ∃ r, t = faultedWith s r) ∧
    (t.tonePulse = s.tonePulse ∨ ∃ r, t = faultedWith s r) ∧
    t.keys = s.keys

/-- "The block never writes `keys` except at reset" (R135). That the implementation parameters stand in State and
nothing changes them is the model's choice (log entry 4, DESIGN CHOICE). -/
def Obligations.StepNeverWritesKeysOrParameters : Prop :=
  ∀ s t : State, step s = .next t → t.keys = s.keys ∧ t.cfg = s.cfg

/-! Reset and the host (70_reset_and_hazards.md, 60_exceptions.md R134). -/

/-- R16, R24: at reset every `V[i]` is 0x00 and `PC` is 0x200, at the first reset and at every later one. -/
def Obligations.ResetZeroesRegistersAndSetsPc : Prop :=
  (∀ x, State.reset.readV x = 0x00#8) ∧ State.reset.pc = 0x200#16 ∧
  ∀ s : State, (∀ x, (hostReset s).readV x = 0x00#8) ∧ (hostReset s).pc = 0x200#16

/-- The rest of R140, which the spec's decision D6 gives (log entry 6), and the font of R44 (for whatever `FONT` the
machine has): reset leaves every other state element at its reset value. That the parameters `cfg` are kept is no part
of R140 but the model's choice (log entry 15, DESIGN CHOICE). -/
def Obligations.ResetGivesTheRemainingValues : Prop :=
  ∀ s : State,
    (hostReset s).i = 0x0000#16 ∧ (hostReset s).sp.val = 0 ∧ (∀ j : Fin 16, (hostReset s).stack[j.val] = 0x0000#16) ∧
    (hostReset s).dt = 0x00#8 ∧ (hostReset s).st = 0x00#8 ∧
    (∀ row col, (hostReset s).fb.pixel row col = false) ∧ (hostReset s).redraw = false ∧
    (∀ k, (hostReset s).key k = false) ∧ (hostReset s).status = .running ∧
    (hostReset s).tonePulse = false ∧ (hostReset s).toneActive = false ∧ (hostReset s).cfg = s.cfg ∧
    (∀ d : Fin 80, (hostReset s).readByte d.val = s.cfg.font[d.val]) ∧
    (∀ a, 0x050 ≤ a → (hostReset s).readByte a = 0x00#8)

/-- R142, R143, with the spec's decision D22 (log entry 25): a load that fits writes its bytes and nothing else; one
that does not is `ProgramTooLarge` and changes nothing. -/
def Obligations.LoadWritesTheBytesOrNothing : Prop :=
  ∀ (offset : Nat) (bytes : List Byte) (s : State),
    (offset + bytes.length ≤ 4096 → ∃ t, hostLoad offset bytes s = (.ok, t) ∧ t = { s with mem := t.mem } ∧
      (∀ k (h : k < bytes.length), t.readByte (offset + k) = bytes[k]) ∧
      (∀ a, ¬(offset ≤ a ∧ a < offset + bytes.length) → t.readByte a = s.readByte a)) ∧
    (offset + bytes.length > 4096 → hostLoad offset bytes s = (.programTooLarge offset bytes.length, s))

/-- R134, R135, R136, R111, with the spec's decisions D24 and D32 (log entries 26 and 14): `set_key` writes one key
bit, `clear_redraw` the flag, and the reads change nothing and give the display, the flag, and the sound outputs. -/
def Obligations.HostWritesAndReadsOnlyWhatItNames : Prop :=
  ∀ (k j : RegNum) (pressed : Bool) (s : State),
    ((hostSetKey k pressed s).key j = if j = k then pressed else s.key j) ∧
    hostSetKey k pressed s = { s with keys := (hostSetKey k pressed s).keys } ∧
    hostClearRedraw s = { s with redraw := false } ∧
    hostApply .readDisplay s = .next s ∧ hostReply .readDisplay s = .display s.fb s.redraw ∧
    hostApply .readTone s = .next s ∧ hostApply .inspect s = .next s ∧ hostReply .inspect s = .state s ∧
    ∃ active, hostReply .readTone s = .tone active s.tonePulse ∧ (active = true ↔ s.st.toNat > 0)
end

