-- ==== Sys2Proof/Laws/Memory.lean ====
section
/-! SUPPORT. The laws of memory: a read after a write, and that every operation keeps the canonical form. -/

namespace Sys2Proof.Machine

variable {font : Font} {m : Memory}

theorem lookup_insert (m : Memory) (k j : Nat) (v : Byte) :
    Memory.lookup (Memory.insert m k v) j = if k = j then some v else Memory.lookup m j := by
  induction m with
  | nil => simp [Memory.insert, Memory.lookup]
  | cons c m ih =>
    obtain ⟨a, b⟩ := c
    by_cases below : k < a
    · simp only [Memory.insert, below, if_true, Memory.lookup]
    · by_cases same : k = a
      · subst same
        by_cases hit : k = j
        · simp [Memory.insert, Memory.lookup, hit]
        · simp [Memory.insert, Memory.lookup, hit]
      · simp only [Memory.insert, below, same, if_false, Memory.lookup, ih]
        by_cases hit : a = j
        · have other : k ≠ j := fun h => same (h.trans hit.symm)
          simp [hit, other]
        · simp [hit]

theorem lookup_erase (m : Memory) (k j : Nat) :
    Memory.lookup (Memory.erase m k) j = if k = j then none else Memory.lookup m j := by
  induction m with
  | nil => simp [Memory.erase, Memory.lookup]
  | cons c m ih =>
    obtain ⟨a, b⟩ := c
    by_cases same : a = k
    · subst same
      simp only [Memory.erase, if_true, ih, Memory.lookup]
      by_cases hit : a = j <;> simp [hit]
    · simp only [Memory.erase, same, if_false, Memory.lookup, ih]
      by_cases hit : a = j
      · have other : k ≠ j := fun h => same (hit.trans h.symm)
        simp [hit, other]
      · simp [hit]

/-- Reading after one write: the byte written at its address, the old byte at every other. -/
theorem read_write (m : Memory) (k j : Nat) (v : Byte) :
    Memory.read font (Memory.write font m k v) j = if j = k then v else Memory.read font m j := by
  unfold Memory.read Memory.write
  by_cases hit : j = k
  · subst hit
    split
    · simp [lookup_erase, *]
    · simp [lookup_insert]
  · have other : k ≠ j := fun h => hit h.symm
    split
    · simp [lookup_erase, other]
    · simp [lookup_insert, other]

/-- Reading after a list of bytes is written: the bytes of the list at ascending addresses, the old byte at every other
address. -/
theorem read_writeList (bytes : List Byte) (m : Memory) (a j : Nat) :
    Memory.read font (Memory.writeList font m a bytes) j =
      if h : a ≤ j ∧ j < a + bytes.length then bytes[j - a] else Memory.read font m j := by
  induction bytes generalizing m a with
  | nil =>
    simp [Memory.writeList]
  | cons b bytes ih =>
    simp only [Memory.writeList, ih, read_write, List.length_cons]
    by_cases first : j = a
    · subst first
      simp
    · by_cases inside : a + 1 ≤ j ∧ j < a + 1 + bytes.length
      · have whole : a ≤ j ∧ j < a + (bytes.length + 1) := by omega
        have shift : j - a = j - (a + 1) + 1 := by omega
        simp [inside, whole, shift]
      · have outside : ¬(a ≤ j ∧ j < a + (bytes.length + 1)) := by omega
        rw [dif_neg inside, dif_neg outside, if_neg first]

theorem mem_insert {c : Host.Cell} {k : Nat} {v : Byte} (member : c ∈ Memory.insert m k v) :
    c = (k, v) ∨ c ∈ m := by
  induction m with
  | nil => simpa [Memory.insert] using member
  | cons d m ih =>
    obtain ⟨a, b⟩ := d
    simp only [Memory.insert] at member
    split at member
    · simpa using member
    · split at member
      · simp only [List.mem_cons] at member ⊢
        tauto
      · simp only [List.mem_cons] at member ⊢
        rcases member with rfl | rest
        · tauto
        · have := ih rest
          tauto

theorem sorted_insert (k : Nat) (v : Byte) (sorted : m.Pairwise (fun p q => p.1 < q.1)) :
    (Memory.insert m k v).Pairwise (fun p q => p.1 < q.1) := by
  induction m with
  | nil => simp [Memory.insert]
  | cons d m ih =>
    obtain ⟨a, b⟩ := d
    have whole := sorted
    rw [List.pairwise_cons] at sorted
    simp only [Memory.insert]
    split
    case isTrue below =>
      refine List.pairwise_cons.mpr ⟨fun c hc => ?_, whole⟩
      rcases List.mem_cons.mp hc with rfl | rest
      · exact below
      · have := sorted.1 c rest; simp only at this ⊢; omega
    case isFalse notBelow =>
      split
      case isTrue same =>
        subst same
        exact List.pairwise_cons.mpr ⟨sorted.1, sorted.2⟩
      case isFalse other =>
        refine List.pairwise_cons.mpr ⟨fun c hc => ?_, ih sorted.2⟩
        rcases mem_insert hc with rfl | rest
        · simp only; omega
        · exact sorted.1 c rest

theorem erase_sublist (m : Memory) (k : Nat) : (Memory.erase m k).Sublist m := by
  induction m with
  | nil => exact List.Sublist.refl _
  | cons d m ih =>
    simp only [Memory.erase]
    split
    · exact ih.cons d
    · exact ih.cons_cons d

/-- A write inside the address space keeps the canonical form. -/
theorem write_keeps_wf (canonical : m.wf font) {k : Nat} (inside : k < 4096) (v : Byte) :
    (Memory.write font m k v).wf font := by
  unfold Memory.write
  split
  case isTrue =>
    exact ⟨canonical.1.sublist (erase_sublist m k), fun c hc => canonical.2 c ((erase_sublist m k).subset hc)⟩
  case isFalse differs =>
    refine ⟨sorted_insert k v canonical.1, fun c hc => ?_⟩
    rcases mem_insert hc with rfl | old
    · exact ⟨inside, differs⟩
    · exact canonical.2 c old

/-- Writing a list of bytes inside the address space keeps the canonical form. -/
theorem writeList_keeps_wf {a : Nat} {bytes : List Byte} (canonical : m.wf font) (inside : a + bytes.length ≤ 4096) :
    (Memory.writeList font m a bytes).wf font := by
  induction bytes generalizing m a with
  | nil => exact canonical
  | cons b bytes ih =>
    have room : a + (bytes.length + 1) ≤ 4096 := inside
    exact ih (write_keeps_wf canonical (by omega) b) (by omega)

/-- The empty memory, that of reset, is in canonical form. -/
theorem empty_wf : Memory.wf font [] := ⟨List.Pairwise.nil, fun _ h => nomatch h⟩

/-- What a byte reads as in the empty memory. -/
@[simp] theorem read_empty (a : Nat) : Memory.read font [] a = Memory.unlisted font a := rfl

end Sys2Proof.Machine
end

