-- ==== Sys2Proof/Laws/State.lean ====
section
/-! SUPPORT. One lemma per field per update of State, so that no later proof unfolds a record update, and one per
read of State for each update that does not concern it. -/

namespace Sys2Proof.Machine

@[simp] theorem setV_v (s : State) (x : RegNum) (b : Byte) : (s.setV x b).v = s.v.set x.val b := rfl
@[simp] theorem setV_i (s : State) (x : RegNum) (b : Byte) : (s.setV x b).i = s.i := rfl
@[simp] theorem setV_pc (s : State) (x : RegNum) (b : Byte) : (s.setV x b).pc = s.pc := rfl
@[simp] theorem setV_sp (s : State) (x : RegNum) (b : Byte) : (s.setV x b).sp = s.sp := rfl
@[simp] theorem setV_stack (s : State) (x : RegNum) (b : Byte) : (s.setV x b).stack = s.stack := rfl
@[simp] theorem setV_dt (s : State) (x : RegNum) (b : Byte) : (s.setV x b).dt = s.dt := rfl
@[simp] theorem setV_st (s : State) (x : RegNum) (b : Byte) : (s.setV x b).st = s.st := rfl
@[simp] theorem setV_fb (s : State) (x : RegNum) (b : Byte) : (s.setV x b).fb = s.fb := rfl
@[simp] theorem setV_redraw (s : State) (x : RegNum) (b : Byte) : (s.setV x b).redraw = s.redraw := rfl
@[simp] theorem setV_keys (s : State) (x : RegNum) (b : Byte) : (s.setV x b).keys = s.keys := rfl
@[simp] theorem setV_status (s : State) (x : RegNum) (b : Byte) : (s.setV x b).status = s.status := rfl
@[simp] theorem setV_mem (s : State) (x : RegNum) (b : Byte) : (s.setV x b).mem = s.mem := rfl
@[simp] theorem setV_tonePulse (s : State) (x : RegNum) (b : Byte) : (s.setV x b).tonePulse = s.tonePulse := rfl
@[simp] theorem setV_cfg (s : State) (x : RegNum) (b : Byte) : (s.setV x b).cfg = s.cfg := rfl
@[simp] theorem setV_inputs (s : State) (x : RegNum) (b : Byte) : (s.setV x b).inputs = s.inputs := rfl
@[simp] theorem setV_draws (s : State) (x : RegNum) (b : Byte) : (s.setV x b).draws = s.draws := rfl
@[simp] theorem setV_readByte (s : State) (x : RegNum) (b : Byte) (p : Nat) : (s.setV x b).readByte p = s.readByte p := rfl
@[simp] theorem setV_key (s : State) (x : RegNum) (b : Byte) (k : RegNum) : (s.setV x b).key k = s.key k := rfl
@[simp] theorem setV_lowestKey (s : State) (x : RegNum) (b : Byte) : (s.setV x b).lowestKey = s.lowestKey := rfl
@[simp] theorem setV_input (s : State) (x : RegNum) (b : Byte) : (s.setV x b).input = s.input := rfl
@[simp] theorem setV_isFaulted (s : State) (x : RegNum) (b : Byte) : (s.setV x b).isFaulted = s.isFaulted := rfl
@[simp] theorem setV_toneActive (s : State) (x : RegNum) (b : Byte) : (s.setV x b).toneActive = s.toneActive := rfl

@[simp] theorem setFlag_v (s : State) (f : Bool) : (s.setFlag f).v = s.v.set 15 (flagByte f) := rfl
@[simp] theorem setFlag_i (s : State) (f : Bool) : (s.setFlag f).i = s.i := rfl
@[simp] theorem setFlag_pc (s : State) (f : Bool) : (s.setFlag f).pc = s.pc := rfl
@[simp] theorem setFlag_sp (s : State) (f : Bool) : (s.setFlag f).sp = s.sp := rfl
@[simp] theorem setFlag_stack (s : State) (f : Bool) : (s.setFlag f).stack = s.stack := rfl
@[simp] theorem setFlag_dt (s : State) (f : Bool) : (s.setFlag f).dt = s.dt := rfl
@[simp] theorem setFlag_st (s : State) (f : Bool) : (s.setFlag f).st = s.st := rfl
@[simp] theorem setFlag_fb (s : State) (f : Bool) : (s.setFlag f).fb = s.fb := rfl
@[simp] theorem setFlag_redraw (s : State) (f : Bool) : (s.setFlag f).redraw = s.redraw := rfl
@[simp] theorem setFlag_keys (s : State) (f : Bool) : (s.setFlag f).keys = s.keys := rfl
@[simp] theorem setFlag_status (s : State) (f : Bool) : (s.setFlag f).status = s.status := rfl
@[simp] theorem setFlag_mem (s : State) (f : Bool) : (s.setFlag f).mem = s.mem := rfl
@[simp] theorem setFlag_tonePulse (s : State) (f : Bool) : (s.setFlag f).tonePulse = s.tonePulse := rfl
@[simp] theorem setFlag_cfg (s : State) (f : Bool) : (s.setFlag f).cfg = s.cfg := rfl
@[simp] theorem setFlag_inputs (s : State) (f : Bool) : (s.setFlag f).inputs = s.inputs := rfl
@[simp] theorem setFlag_draws (s : State) (f : Bool) : (s.setFlag f).draws = s.draws := rfl
@[simp] theorem setFlag_readByte (s : State) (f : Bool) (p : Nat) : (s.setFlag f).readByte p = s.readByte p := rfl
@[simp] theorem setFlag_key (s : State) (f : Bool) (k : RegNum) : (s.setFlag f).key k = s.key k := rfl
@[simp] theorem setFlag_lowestKey (s : State) (f : Bool) : (s.setFlag f).lowestKey = s.lowestKey := rfl
@[simp] theorem setFlag_input (s : State) (f : Bool) : (s.setFlag f).input = s.input := rfl
@[simp] theorem setFlag_isFaulted (s : State) (f : Bool) : (s.setFlag f).isFaulted = s.isFaulted := rfl
@[simp] theorem setFlag_toneActive (s : State) (f : Bool) : (s.setFlag f).toneActive = s.toneActive := rfl

@[simp] theorem setI_v (s : State) (w : Word) : (s.setI w).v = s.v := rfl
@[simp] theorem setI_i (s : State) (w : Word) : (s.setI w).i = w := rfl
@[simp] theorem setI_pc (s : State) (w : Word) : (s.setI w).pc = s.pc := rfl
@[simp] theorem setI_sp (s : State) (w : Word) : (s.setI w).sp = s.sp := rfl
@[simp] theorem setI_stack (s : State) (w : Word) : (s.setI w).stack = s.stack := rfl
@[simp] theorem setI_dt (s : State) (w : Word) : (s.setI w).dt = s.dt := rfl
@[simp] theorem setI_st (s : State) (w : Word) : (s.setI w).st = s.st := rfl
@[simp] theorem setI_fb (s : State) (w : Word) : (s.setI w).fb = s.fb := rfl
@[simp] theorem setI_redraw (s : State) (w : Word) : (s.setI w).redraw = s.redraw := rfl
@[simp] theorem setI_keys (s : State) (w : Word) : (s.setI w).keys = s.keys := rfl
@[simp] theorem setI_status (s : State) (w : Word) : (s.setI w).status = s.status := rfl
@[simp] theorem setI_mem (s : State) (w : Word) : (s.setI w).mem = s.mem := rfl
@[simp] theorem setI_tonePulse (s : State) (w : Word) : (s.setI w).tonePulse = s.tonePulse := rfl
@[simp] theorem setI_cfg (s : State) (w : Word) : (s.setI w).cfg = s.cfg := rfl
@[simp] theorem setI_inputs (s : State) (w : Word) : (s.setI w).inputs = s.inputs := rfl
@[simp] theorem setI_draws (s : State) (w : Word) : (s.setI w).draws = s.draws := rfl
@[simp] theorem setI_readV (s : State) (w : Word) (q : RegNum) : (s.setI w).readV q = s.readV q := rfl
@[simp] theorem setI_readByte (s : State) (w : Word) (p : Nat) : (s.setI w).readByte p = s.readByte p := rfl
@[simp] theorem setI_key (s : State) (w : Word) (k : RegNum) : (s.setI w).key k = s.key k := rfl
@[simp] theorem setI_lowestKey (s : State) (w : Word) : (s.setI w).lowestKey = s.lowestKey := rfl
@[simp] theorem setI_input (s : State) (w : Word) : (s.setI w).input = s.input := rfl
@[simp] theorem setI_isFaulted (s : State) (w : Word) : (s.setI w).isFaulted = s.isFaulted := rfl
@[simp] theorem setI_toneActive (s : State) (w : Word) : (s.setI w).toneActive = s.toneActive := rfl

@[simp] theorem setPc_v (s : State) (w : Word) : (s.setPc w).v = s.v := rfl
@[simp] theorem setPc_i (s : State) (w : Word) : (s.setPc w).i = s.i := rfl
@[simp] theorem setPc_pc (s : State) (w : Word) : (s.setPc w).pc = w := rfl
@[simp] theorem setPc_sp (s : State) (w : Word) : (s.setPc w).sp = s.sp := rfl
@[simp] theorem setPc_stack (s : State) (w : Word) : (s.setPc w).stack = s.stack := rfl
@[simp] theorem setPc_dt (s : State) (w : Word) : (s.setPc w).dt = s.dt := rfl
@[simp] theorem setPc_st (s : State) (w : Word) : (s.setPc w).st = s.st := rfl
@[simp] theorem setPc_fb (s : State) (w : Word) : (s.setPc w).fb = s.fb := rfl
@[simp] theorem setPc_redraw (s : State) (w : Word) : (s.setPc w).redraw = s.redraw := rfl
@[simp] theorem setPc_keys (s : State) (w : Word) : (s.setPc w).keys = s.keys := rfl
@[simp] theorem setPc_status (s : State) (w : Word) : (s.setPc w).status = s.status := rfl
@[simp] theorem setPc_mem (s : State) (w : Word) : (s.setPc w).mem = s.mem := rfl
@[simp] theorem setPc_tonePulse (s : State) (w : Word) : (s.setPc w).tonePulse = s.tonePulse := rfl
@[simp] theorem setPc_cfg (s : State) (w : Word) : (s.setPc w).cfg = s.cfg := rfl
@[simp] theorem setPc_inputs (s : State) (w : Word) : (s.setPc w).inputs = s.inputs := rfl
@[simp] theorem setPc_draws (s : State) (w : Word) : (s.setPc w).draws = s.draws := rfl
@[simp] theorem setPc_readV (s : State) (w : Word) (q : RegNum) : (s.setPc w).readV q = s.readV q := rfl
@[simp] theorem setPc_readByte (s : State) (w : Word) (p : Nat) : (s.setPc w).readByte p = s.readByte p := rfl
@[simp] theorem setPc_key (s : State) (w : Word) (k : RegNum) : (s.setPc w).key k = s.key k := rfl
@[simp] theorem setPc_lowestKey (s : State) (w : Word) : (s.setPc w).lowestKey = s.lowestKey := rfl
@[simp] theorem setPc_input (s : State) (w : Word) : (s.setPc w).input = s.input := rfl
@[simp] theorem setPc_isFaulted (s : State) (w : Word) : (s.setPc w).isFaulted = s.isFaulted := rfl
@[simp] theorem setPc_toneActive (s : State) (w : Word) : (s.setPc w).toneActive = s.toneActive := rfl

@[simp] theorem setDt_v (s : State) (b : Byte) : (s.setDt b).v = s.v := rfl
@[simp] theorem setDt_i (s : State) (b : Byte) : (s.setDt b).i = s.i := rfl
@[simp] theorem setDt_pc (s : State) (b : Byte) : (s.setDt b).pc = s.pc := rfl
@[simp] theorem setDt_sp (s : State) (b : Byte) : (s.setDt b).sp = s.sp := rfl
@[simp] theorem setDt_stack (s : State) (b : Byte) : (s.setDt b).stack = s.stack := rfl
@[simp] theorem setDt_dt (s : State) (b : Byte) : (s.setDt b).dt = b := rfl
@[simp] theorem setDt_st (s : State) (b : Byte) : (s.setDt b).st = s.st := rfl
@[simp] theorem setDt_fb (s : State) (b : Byte) : (s.setDt b).fb = s.fb := rfl
@[simp] theorem setDt_redraw (s : State) (b : Byte) : (s.setDt b).redraw = s.redraw := rfl
@[simp] theorem setDt_keys (s : State) (b : Byte) : (s.setDt b).keys = s.keys := rfl
@[simp] theorem setDt_status (s : State) (b : Byte) : (s.setDt b).status = s.status := rfl
@[simp] theorem setDt_mem (s : State) (b : Byte) : (s.setDt b).mem = s.mem := rfl
@[simp] theorem setDt_tonePulse (s : State) (b : Byte) : (s.setDt b).tonePulse = s.tonePulse := rfl
@[simp] theorem setDt_cfg (s : State) (b : Byte) : (s.setDt b).cfg = s.cfg := rfl
@[simp] theorem setDt_inputs (s : State) (b : Byte) : (s.setDt b).inputs = s.inputs := rfl
@[simp] theorem setDt_draws (s : State) (b : Byte) : (s.setDt b).draws = s.draws := rfl
@[simp] theorem setDt_readV (s : State) (b : Byte) (q : RegNum) : (s.setDt b).readV q = s.readV q := rfl
@[simp] theorem setDt_readByte (s : State) (b : Byte) (p : Nat) : (s.setDt b).readByte p = s.readByte p := rfl
@[simp] theorem setDt_key (s : State) (b : Byte) (k : RegNum) : (s.setDt b).key k = s.key k := rfl
@[simp] theorem setDt_lowestKey (s : State) (b : Byte) : (s.setDt b).lowestKey = s.lowestKey := rfl
@[simp] theorem setDt_input (s : State) (b : Byte) : (s.setDt b).input = s.input := rfl
@[simp] theorem setDt_isFaulted (s : State) (b : Byte) : (s.setDt b).isFaulted = s.isFaulted := rfl
@[simp] theorem setDt_toneActive (s : State) (b : Byte) : (s.setDt b).toneActive = s.toneActive := rfl

@[simp] theorem setSt_v (s : State) (b : Byte) : (s.setSt b).v = s.v := rfl
@[simp] theorem setSt_i (s : State) (b : Byte) : (s.setSt b).i = s.i := rfl
@[simp] theorem setSt_pc (s : State) (b : Byte) : (s.setSt b).pc = s.pc := rfl
@[simp] theorem setSt_sp (s : State) (b : Byte) : (s.setSt b).sp = s.sp := rfl
@[simp] theorem setSt_stack (s : State) (b : Byte) : (s.setSt b).stack = s.stack := rfl
@[simp] theorem setSt_dt (s : State) (b : Byte) : (s.setSt b).dt = s.dt := rfl
@[simp] theorem setSt_st (s : State) (b : Byte) : (s.setSt b).st = b := rfl
@[simp] theorem setSt_fb (s : State) (b : Byte) : (s.setSt b).fb = s.fb := rfl
@[simp] theorem setSt_redraw (s : State) (b : Byte) : (s.setSt b).redraw = s.redraw := rfl
@[simp] theorem setSt_keys (s : State) (b : Byte) : (s.setSt b).keys = s.keys := rfl
@[simp] theorem setSt_status (s : State) (b : Byte) : (s.setSt b).status = s.status := rfl
@[simp] theorem setSt_mem (s : State) (b : Byte) : (s.setSt b).mem = s.mem := rfl
@[simp] theorem setSt_tonePulse (s : State) (b : Byte) : (s.setSt b).tonePulse = s.tonePulse := rfl
@[simp] theorem setSt_cfg (s : State) (b : Byte) : (s.setSt b).cfg = s.cfg := rfl
@[simp] theorem setSt_inputs (s : State) (b : Byte) : (s.setSt b).inputs = s.inputs := rfl
@[simp] theorem setSt_draws (s : State) (b : Byte) : (s.setSt b).draws = s.draws := rfl
@[simp] theorem setSt_readV (s : State) (b : Byte) (q : RegNum) : (s.setSt b).readV q = s.readV q := rfl
@[simp] theorem setSt_readByte (s : State) (b : Byte) (p : Nat) : (s.setSt b).readByte p = s.readByte p := rfl
@[simp] theorem setSt_key (s : State) (b : Byte) (k : RegNum) : (s.setSt b).key k = s.key k := rfl
@[simp] theorem setSt_lowestKey (s : State) (b : Byte) : (s.setSt b).lowestKey = s.lowestKey := rfl
@[simp] theorem setSt_input (s : State) (b : Byte) : (s.setSt b).input = s.input := rfl
@[simp] theorem setSt_isFaulted (s : State) (b : Byte) : (s.setSt b).isFaulted = s.isFaulted := rfl

@[simp] theorem advance_v (s : State) : s.advance.v = s.v := rfl
@[simp] theorem advance_i (s : State) : s.advance.i = s.i := rfl
@[simp] theorem advance_pc (s : State) : s.advance.pc = s.pc + 2#16 := rfl
@[simp] theorem advance_sp (s : State) : s.advance.sp = s.sp := rfl
@[simp] theorem advance_stack (s : State) : s.advance.stack = s.stack := rfl
@[simp] theorem advance_dt (s : State) : s.advance.dt = s.dt := rfl
@[simp] theorem advance_st (s : State) : s.advance.st = s.st := rfl
@[simp] theorem advance_fb (s : State) : s.advance.fb = s.fb := rfl
@[simp] theorem advance_redraw (s : State) : s.advance.redraw = s.redraw := rfl
@[simp] theorem advance_keys (s : State) : s.advance.keys = s.keys := rfl
@[simp] theorem advance_status (s : State) : s.advance.status = s.status := rfl
@[simp] theorem advance_mem (s : State) : s.advance.mem = s.mem := rfl
@[simp] theorem advance_tonePulse (s : State) : s.advance.tonePulse = s.tonePulse := rfl
@[simp] theorem advance_cfg (s : State) : s.advance.cfg = s.cfg := rfl
@[simp] theorem advance_inputs (s : State) : s.advance.inputs = s.inputs := rfl
@[simp] theorem advance_draws (s : State) : s.advance.draws = s.draws := rfl
@[simp] theorem advance_readV (s : State) (q : RegNum) : s.advance.readV q = s.readV q := rfl
@[simp] theorem advance_readByte (s : State) (p : Nat) : s.advance.readByte p = s.readByte p := rfl
@[simp] theorem advance_key (s : State) (k : RegNum) : s.advance.key k = s.key k := rfl
@[simp] theorem advance_lowestKey (s : State) : s.advance.lowestKey = s.lowestKey := rfl
@[simp] theorem advance_input (s : State) : s.advance.input = s.input := rfl
@[simp] theorem advance_isFaulted (s : State) : s.advance.isFaulted = s.isFaulted := rfl
@[simp] theorem advance_toneActive (s : State) : s.advance.toneActive = s.toneActive := rfl

@[simp] theorem skipIf_v (s : State) (c : Bool) : (s.skipIf c).v = s.v := rfl
@[simp] theorem skipIf_i (s : State) (c : Bool) : (s.skipIf c).i = s.i := rfl
@[simp] theorem skipIf_pc (s : State) (c : Bool) : (s.skipIf c).pc = if c then s.pc + 4#16 else s.pc + 2#16 := rfl
@[simp] theorem skipIf_sp (s : State) (c : Bool) : (s.skipIf c).sp = s.sp := rfl
@[simp] theorem skipIf_stack (s : State) (c : Bool) : (s.skipIf c).stack = s.stack := rfl
@[simp] theorem skipIf_dt (s : State) (c : Bool) : (s.skipIf c).dt = s.dt := rfl
@[simp] theorem skipIf_st (s : State) (c : Bool) : (s.skipIf c).st = s.st := rfl
@[simp] theorem skipIf_fb (s : State) (c : Bool) : (s.skipIf c).fb = s.fb := rfl
@[simp] theorem skipIf_redraw (s : State) (c : Bool) : (s.skipIf c).redraw = s.redraw := rfl
@[simp] theorem skipIf_keys (s : State) (c : Bool) : (s.skipIf c).keys = s.keys := rfl
@[simp] theorem skipIf_status (s : State) (c : Bool) : (s.skipIf c).status = s.status := rfl
@[simp] theorem skipIf_mem (s : State) (c : Bool) : (s.skipIf c).mem = s.mem := rfl
@[simp] theorem skipIf_tonePulse (s : State) (c : Bool) : (s.skipIf c).tonePulse = s.tonePulse := rfl
@[simp] theorem skipIf_cfg (s : State) (c : Bool) : (s.skipIf c).cfg = s.cfg := rfl
@[simp] theorem skipIf_inputs (s : State) (c : Bool) : (s.skipIf c).inputs = s.inputs := rfl
@[simp] theorem skipIf_draws (s : State) (c : Bool) : (s.skipIf c).draws = s.draws := rfl
@[simp] theorem skipIf_readV (s : State) (c : Bool) (q : RegNum) : (s.skipIf c).readV q = s.readV q := rfl
@[simp] theorem skipIf_readByte (s : State) (c : Bool) (p : Nat) : (s.skipIf c).readByte p = s.readByte p := rfl
@[simp] theorem skipIf_key (s : State) (c : Bool) (k : RegNum) : (s.skipIf c).key k = s.key k := rfl
@[simp] theorem skipIf_lowestKey (s : State) (c : Bool) : (s.skipIf c).lowestKey = s.lowestKey := rfl
@[simp] theorem skipIf_input (s : State) (c : Bool) : (s.skipIf c).input = s.input := rfl
@[simp] theorem skipIf_isFaulted (s : State) (c : Bool) : (s.skipIf c).isFaulted = s.isFaulted := rfl
@[simp] theorem skipIf_toneActive (s : State) (c : Bool) : (s.skipIf c).toneActive = s.toneActive := rfl

@[simp] theorem setVs_v (s : State) (bytes : List Byte) : (s.setVs bytes).v = writeRegs s.v 0 bytes := rfl
@[simp] theorem setVs_i (s : State) (bytes : List Byte) : (s.setVs bytes).i = s.i := rfl
@[simp] theorem setVs_pc (s : State) (bytes : List Byte) : (s.setVs bytes).pc = s.pc := rfl
@[simp] theorem setVs_sp (s : State) (bytes : List Byte) : (s.setVs bytes).sp = s.sp := rfl
@[simp] theorem setVs_stack (s : State) (bytes : List Byte) : (s.setVs bytes).stack = s.stack := rfl
@[simp] theorem setVs_dt (s : State) (bytes : List Byte) : (s.setVs bytes).dt = s.dt := rfl
@[simp] theorem setVs_st (s : State) (bytes : List Byte) : (s.setVs bytes).st = s.st := rfl
@[simp] theorem setVs_fb (s : State) (bytes : List Byte) : (s.setVs bytes).fb = s.fb := rfl
@[simp] theorem setVs_redraw (s : State) (bytes : List Byte) : (s.setVs bytes).redraw = s.redraw := rfl
@[simp] theorem setVs_keys (s : State) (bytes : List Byte) : (s.setVs bytes).keys = s.keys := rfl
@[simp] theorem setVs_status (s : State) (bytes : List Byte) : (s.setVs bytes).status = s.status := rfl
@[simp] theorem setVs_mem (s : State) (bytes : List Byte) : (s.setVs bytes).mem = s.mem := rfl
@[simp] theorem setVs_tonePulse (s : State) (bytes : List Byte) : (s.setVs bytes).tonePulse = s.tonePulse := rfl
@[simp] theorem setVs_cfg (s : State) (bytes : List Byte) : (s.setVs bytes).cfg = s.cfg := rfl
@[simp] theorem setVs_inputs (s : State) (bytes : List Byte) : (s.setVs bytes).inputs = s.inputs := rfl
@[simp] theorem setVs_draws (s : State) (bytes : List Byte) : (s.setVs bytes).draws = s.draws := rfl
@[simp] theorem setVs_readByte (s : State) (bytes : List Byte) (p : Nat) : (s.setVs bytes).readByte p = s.readByte p := rfl
@[simp] theorem setVs_key (s : State) (bytes : List Byte) (k : RegNum) : (s.setVs bytes).key k = s.key k := rfl
@[simp] theorem setVs_lowestKey (s : State) (bytes : List Byte) : (s.setVs bytes).lowestKey = s.lowestKey := rfl
@[simp] theorem setVs_input (s : State) (bytes : List Byte) : (s.setVs bytes).input = s.input := rfl
@[simp] theorem setVs_isFaulted (s : State) (bytes : List Byte) : (s.setVs bytes).isFaulted = s.isFaulted := rfl
@[simp] theorem setVs_toneActive (s : State) (bytes : List Byte) : (s.setVs bytes).toneActive = s.toneActive := rfl

@[simp] theorem setStatus_v (s : State) (r : Status) : (s.setStatus r).v = s.v := rfl
@[simp] theorem setStatus_i (s : State) (r : Status) : (s.setStatus r).i = s.i := rfl
@[simp] theorem setStatus_pc (s : State) (r : Status) : (s.setStatus r).pc = s.pc := rfl
@[simp] theorem setStatus_sp (s : State) (r : Status) : (s.setStatus r).sp = s.sp := rfl
@[simp] theorem setStatus_stack (s : State) (r : Status) : (s.setStatus r).stack = s.stack := rfl
@[simp] theorem setStatus_dt (s : State) (r : Status) : (s.setStatus r).dt = s.dt := rfl
@[simp] theorem setStatus_st (s : State) (r : Status) : (s.setStatus r).st = s.st := rfl
@[simp] theorem setStatus_fb (s : State) (r : Status) : (s.setStatus r).fb = s.fb := rfl
@[simp] theorem setStatus_redraw (s : State) (r : Status) : (s.setStatus r).redraw = s.redraw := rfl
@[simp] theorem setStatus_keys (s : State) (r : Status) : (s.setStatus r).keys = s.keys := rfl
@[simp] theorem setStatus_status (s : State) (r : Status) : (s.setStatus r).status = r := rfl
@[simp] theorem setStatus_mem (s : State) (r : Status) : (s.setStatus r).mem = s.mem := rfl
@[simp] theorem setStatus_tonePulse (s : State) (r : Status) : (s.setStatus r).tonePulse = s.tonePulse := rfl
@[simp] theorem setStatus_cfg (s : State) (r : Status) : (s.setStatus r).cfg = s.cfg := rfl
@[simp] theorem setStatus_inputs (s : State) (r : Status) : (s.setStatus r).inputs = s.inputs := rfl
@[simp] theorem setStatus_draws (s : State) (r : Status) : (s.setStatus r).draws = s.draws := rfl
@[simp] theorem setStatus_readV (s : State) (r : Status) (q : RegNum) : (s.setStatus r).readV q = s.readV q := rfl
@[simp] theorem setStatus_readByte (s : State) (r : Status) (p : Nat) : (s.setStatus r).readByte p = s.readByte p := rfl
@[simp] theorem setStatus_key (s : State) (r : Status) (k : RegNum) : (s.setStatus r).key k = s.key k := rfl
@[simp] theorem setStatus_lowestKey (s : State) (r : Status) : (s.setStatus r).lowestKey = s.lowestKey := rfl
@[simp] theorem setStatus_input (s : State) (r : Status) : (s.setStatus r).input = s.input := rfl
@[simp] theorem setStatus_toneActive (s : State) (r : Status) : (s.setStatus r).toneActive = s.toneActive := rfl

@[simp] theorem raise_v (s : State) (r : FaultRecord) : (s.raise r).v = s.v := rfl
@[simp] theorem raise_i (s : State) (r : FaultRecord) : (s.raise r).i = s.i := rfl
@[simp] theorem raise_pc (s : State) (r : FaultRecord) : (s.raise r).pc = s.pc := rfl
@[simp] theorem raise_sp (s : State) (r : FaultRecord) : (s.raise r).sp = s.sp := rfl
@[simp] theorem raise_stack (s : State) (r : FaultRecord) : (s.raise r).stack = s.stack := rfl
@[simp] theorem raise_dt (s : State) (r : FaultRecord) : (s.raise r).dt = s.dt := rfl
@[simp] theorem raise_st (s : State) (r : FaultRecord) : (s.raise r).st = s.st := rfl
@[simp] theorem raise_fb (s : State) (r : FaultRecord) : (s.raise r).fb = s.fb := rfl
@[simp] theorem raise_redraw (s : State) (r : FaultRecord) : (s.raise r).redraw = s.redraw := rfl
@[simp] theorem raise_keys (s : State) (r : FaultRecord) : (s.raise r).keys = s.keys := rfl
@[simp] theorem raise_status (s : State) (r : FaultRecord) : (s.raise r).status = .faulted r := rfl
@[simp] theorem raise_mem (s : State) (r : FaultRecord) : (s.raise r).mem = s.mem := rfl
@[simp] theorem raise_tonePulse (s : State) (r : FaultRecord) : (s.raise r).tonePulse = false := rfl
@[simp] theorem raise_cfg (s : State) (r : FaultRecord) : (s.raise r).cfg = s.cfg := rfl
@[simp] theorem raise_inputs (s : State) (r : FaultRecord) : (s.raise r).inputs = s.inputs := rfl
@[simp] theorem raise_draws (s : State) (r : FaultRecord) : (s.raise r).draws = s.draws := rfl
@[simp] theorem raise_readV (s : State) (r : FaultRecord) (q : RegNum) : (s.raise r).readV q = s.readV q := rfl
@[simp] theorem raise_readByte (s : State) (r : FaultRecord) (p : Nat) : (s.raise r).readByte p = s.readByte p := rfl
@[simp] theorem raise_key (s : State) (r : FaultRecord) (k : RegNum) : (s.raise r).key k = s.key k := rfl
@[simp] theorem raise_lowestKey (s : State) (r : FaultRecord) : (s.raise r).lowestKey = s.lowestKey := rfl
@[simp] theorem raise_input (s : State) (r : FaultRecord) : (s.raise r).input = s.input := rfl
@[simp] theorem raise_toneActive (s : State) (r : FaultRecord) : (s.raise r).toneActive = s.toneActive := rfl

@[simp] theorem putBytes_v (s : State) (a : Nat) (bytes : List Byte) : (s.putBytes a bytes).v = s.v := rfl
@[simp] theorem putBytes_i (s : State) (a : Nat) (bytes : List Byte) : (s.putBytes a bytes).i = s.i := rfl
@[simp] theorem putBytes_pc (s : State) (a : Nat) (bytes : List Byte) : (s.putBytes a bytes).pc = s.pc := rfl
@[simp] theorem putBytes_sp (s : State) (a : Nat) (bytes : List Byte) : (s.putBytes a bytes).sp = s.sp := rfl
@[simp] theorem putBytes_stack (s : State) (a : Nat) (bytes : List Byte) : (s.putBytes a bytes).stack = s.stack := rfl
@[simp] theorem putBytes_dt (s : State) (a : Nat) (bytes : List Byte) : (s.putBytes a bytes).dt = s.dt := rfl
@[simp] theorem putBytes_st (s : State) (a : Nat) (bytes : List Byte) : (s.putBytes a bytes).st = s.st := rfl
@[simp] theorem putBytes_fb (s : State) (a : Nat) (bytes : List Byte) : (s.putBytes a bytes).fb = s.fb := rfl
@[simp] theorem putBytes_redraw (s : State) (a : Nat) (bytes : List Byte) : (s.putBytes a bytes).redraw = s.redraw := rfl
@[simp] theorem putBytes_keys (s : State) (a : Nat) (bytes : List Byte) : (s.putBytes a bytes).keys = s.keys := rfl
@[simp] theorem putBytes_status (s : State) (a : Nat) (bytes : List Byte) : (s.putBytes a bytes).status = s.status := rfl
@[simp] theorem putBytes_mem (s : State) (a : Nat) (bytes : List Byte) : (s.putBytes a bytes).mem = s.mem.writeList s.cfg.font a bytes := rfl
@[simp] theorem putBytes_tonePulse (s : State) (a : Nat) (bytes : List Byte) : (s.putBytes a bytes).tonePulse = s.tonePulse := rfl
@[simp] theorem putBytes_cfg (s : State) (a : Nat) (bytes : List Byte) : (s.putBytes a bytes).cfg = s.cfg := rfl
@[simp] theorem putBytes_inputs (s : State) (a : Nat) (bytes : List Byte) : (s.putBytes a bytes).inputs = s.inputs := rfl
@[simp] theorem putBytes_draws (s : State) (a : Nat) (bytes : List Byte) : (s.putBytes a bytes).draws = s.draws := rfl
@[simp] theorem putBytes_readV (s : State) (a : Nat) (bytes : List Byte) (q : RegNum) : (s.putBytes a bytes).readV q = s.readV q := rfl
@[simp] theorem putBytes_key (s : State) (a : Nat) (bytes : List Byte) (k : RegNum) : (s.putBytes a bytes).key k = s.key k := rfl
@[simp] theorem putBytes_lowestKey (s : State) (a : Nat) (bytes : List Byte) : (s.putBytes a bytes).lowestKey = s.lowestKey := rfl
@[simp] theorem putBytes_input (s : State) (a : Nat) (bytes : List Byte) : (s.putBytes a bytes).input = s.input := rfl
@[simp] theorem putBytes_isFaulted (s : State) (a : Nat) (bytes : List Byte) : (s.putBytes a bytes).isFaulted = s.isFaulted := rfl
@[simp] theorem putBytes_toneActive (s : State) (a : Nat) (bytes : List Byte) : (s.putBytes a bytes).toneActive = s.toneActive := rfl

@[simp] theorem setDisplay_v (s : State) (g : Framebuffer) : (s.setDisplay g).v = s.v := rfl
@[simp] theorem setDisplay_i (s : State) (g : Framebuffer) : (s.setDisplay g).i = s.i := rfl
@[simp] theorem setDisplay_pc (s : State) (g : Framebuffer) : (s.setDisplay g).pc = s.pc := rfl
@[simp] theorem setDisplay_sp (s : State) (g : Framebuffer) : (s.setDisplay g).sp = s.sp := rfl
@[simp] theorem setDisplay_stack (s : State) (g : Framebuffer) : (s.setDisplay g).stack = s.stack := rfl
@[simp] theorem setDisplay_dt (s : State) (g : Framebuffer) : (s.setDisplay g).dt = s.dt := rfl
@[simp] theorem setDisplay_st (s : State) (g : Framebuffer) : (s.setDisplay g).st = s.st := rfl
@[simp] theorem setDisplay_fb (s : State) (g : Framebuffer) : (s.setDisplay g).fb = g := rfl
@[simp] theorem setDisplay_redraw (s : State) (g : Framebuffer) : (s.setDisplay g).redraw = true := rfl
@[simp] theorem setDisplay_keys (s : State) (g : Framebuffer) : (s.setDisplay g).keys = s.keys := rfl
@[simp] theorem setDisplay_status (s : State) (g : Framebuffer) : (s.setDisplay g).status = s.status := rfl
@[simp] theorem setDisplay_mem (s : State) (g : Framebuffer) : (s.setDisplay g).mem = s.mem := rfl
@[simp] theorem setDisplay_tonePulse (s : State) (g : Framebuffer) : (s.setDisplay g).tonePulse = s.tonePulse := rfl
@[simp] theorem setDisplay_cfg (s : State) (g : Framebuffer) : (s.setDisplay g).cfg = s.cfg := rfl
@[simp] theorem setDisplay_inputs (s : State) (g : Framebuffer) : (s.setDisplay g).inputs = s.inputs := rfl
@[simp] theorem setDisplay_draws (s : State) (g : Framebuffer) : (s.setDisplay g).draws = s.draws := rfl
@[simp] theorem setDisplay_readV (s : State) (g : Framebuffer) (q : RegNum) : (s.setDisplay g).readV q = s.readV q := rfl
@[simp] theorem setDisplay_readByte (s : State) (g : Framebuffer) (p : Nat) : (s.setDisplay g).readByte p = s.readByte p := rfl
@[simp] theorem setDisplay_key (s : State) (g : Framebuffer) (k : RegNum) : (s.setDisplay g).key k = s.key k := rfl
@[simp] theorem setDisplay_lowestKey (s : State) (g : Framebuffer) : (s.setDisplay g).lowestKey = s.lowestKey := rfl
@[simp] theorem setDisplay_input (s : State) (g : Framebuffer) : (s.setDisplay g).input = s.input := rfl
@[simp] theorem setDisplay_isFaulted (s : State) (g : Framebuffer) : (s.setDisplay g).isFaulted = s.isFaulted := rfl
@[simp] theorem setDisplay_toneActive (s : State) (g : Framebuffer) : (s.setDisplay g).toneActive = s.toneActive := rfl

@[simp] theorem tick_v (s : State) : s.tick.v = s.v := rfl
@[simp] theorem tick_i (s : State) : s.tick.i = s.i := rfl
@[simp] theorem tick_pc (s : State) : s.tick.pc = s.pc := rfl
@[simp] theorem tick_sp (s : State) : s.tick.sp = s.sp := rfl
@[simp] theorem tick_stack (s : State) : s.tick.stack = s.stack := rfl
@[simp] theorem tick_dt (s : State) : s.tick.dt = countDown s.dt := rfl
@[simp] theorem tick_st (s : State) : s.tick.st = countDown s.st := rfl
@[simp] theorem tick_fb (s : State) : s.tick.fb = s.fb := rfl
@[simp] theorem tick_redraw (s : State) : s.tick.redraw = s.redraw := rfl
@[simp] theorem tick_keys (s : State) : s.tick.keys = s.keys := rfl
@[simp] theorem tick_status (s : State) : s.tick.status = s.status := rfl
@[simp] theorem tick_mem (s : State) : s.tick.mem = s.mem := rfl
@[simp] theorem tick_tonePulse (s : State) : s.tick.tonePulse = decide (s.st.toNat = 1) := rfl
@[simp] theorem tick_cfg (s : State) : s.tick.cfg = s.cfg := rfl
@[simp] theorem tick_inputs (s : State) : s.tick.inputs = s.inputs := rfl
@[simp] theorem tick_draws (s : State) : s.tick.draws = s.draws := rfl
@[simp] theorem tick_readV (s : State) (q : RegNum) : s.tick.readV q = s.readV q := rfl
@[simp] theorem tick_readByte (s : State) (p : Nat) : s.tick.readByte p = s.readByte p := rfl
@[simp] theorem tick_key (s : State) (k : RegNum) : s.tick.key k = s.key k := rfl
@[simp] theorem tick_lowestKey (s : State) : s.tick.lowestKey = s.lowestKey := rfl
@[simp] theorem tick_input (s : State) : s.tick.input = s.input := rfl
@[simp] theorem tick_isFaulted (s : State) : s.tick.isFaulted = s.isFaulted := rfl

@[simp] theorem quiet_v (s : State) : s.quiet.v = s.v := rfl
@[simp] theorem quiet_i (s : State) : s.quiet.i = s.i := rfl
@[simp] theorem quiet_pc (s : State) : s.quiet.pc = s.pc := rfl
@[simp] theorem quiet_sp (s : State) : s.quiet.sp = s.sp := rfl
@[simp] theorem quiet_stack (s : State) : s.quiet.stack = s.stack := rfl
@[simp] theorem quiet_dt (s : State) : s.quiet.dt = s.dt := rfl
@[simp] theorem quiet_st (s : State) : s.quiet.st = s.st := rfl
@[simp] theorem quiet_fb (s : State) : s.quiet.fb = s.fb := rfl
@[simp] theorem quiet_redraw (s : State) : s.quiet.redraw = s.redraw := rfl
@[simp] theorem quiet_keys (s : State) : s.quiet.keys = s.keys := rfl
@[simp] theorem quiet_status (s : State) : s.quiet.status = s.status := rfl
@[simp] theorem quiet_mem (s : State) : s.quiet.mem = s.mem := rfl
@[simp] theorem quiet_tonePulse (s : State) : s.quiet.tonePulse = false := rfl
@[simp] theorem quiet_cfg (s : State) : s.quiet.cfg = s.cfg := rfl
@[simp] theorem quiet_inputs (s : State) : s.quiet.inputs = s.inputs := rfl
@[simp] theorem quiet_draws (s : State) : s.quiet.draws = s.draws := rfl
@[simp] theorem quiet_readV (s : State) (q : RegNum) : s.quiet.readV q = s.readV q := rfl
@[simp] theorem quiet_readByte (s : State) (p : Nat) : s.quiet.readByte p = s.readByte p := rfl
@[simp] theorem quiet_key (s : State) (k : RegNum) : s.quiet.key k = s.key k := rfl
@[simp] theorem quiet_lowestKey (s : State) : s.quiet.lowestKey = s.lowestKey := rfl
@[simp] theorem quiet_input (s : State) : s.quiet.input = s.input := rfl
@[simp] theorem quiet_isFaulted (s : State) : s.quiet.isFaulted = s.isFaulted := rfl
@[simp] theorem quiet_toneActive (s : State) : s.quiet.toneActive = s.toneActive := rfl

@[simp] theorem consumeInput_v (s : State) : s.consumeInput.v = s.v := rfl
@[simp] theorem consumeInput_i (s : State) : s.consumeInput.i = s.i := rfl
@[simp] theorem consumeInput_pc (s : State) : s.consumeInput.pc = s.pc := rfl
@[simp] theorem consumeInput_sp (s : State) : s.consumeInput.sp = s.sp := rfl
@[simp] theorem consumeInput_stack (s : State) : s.consumeInput.stack = s.stack := rfl
@[simp] theorem consumeInput_dt (s : State) : s.consumeInput.dt = s.dt := rfl
@[simp] theorem consumeInput_st (s : State) : s.consumeInput.st = s.st := rfl
@[simp] theorem consumeInput_fb (s : State) : s.consumeInput.fb = s.fb := rfl
@[simp] theorem consumeInput_redraw (s : State) : s.consumeInput.redraw = s.redraw := rfl
@[simp] theorem consumeInput_keys (s : State) : s.consumeInput.keys = s.keys := rfl
@[simp] theorem consumeInput_status (s : State) : s.consumeInput.status = s.status := rfl
@[simp] theorem consumeInput_mem (s : State) : s.consumeInput.mem = s.mem := rfl
@[simp] theorem consumeInput_tonePulse (s : State) : s.consumeInput.tonePulse = s.tonePulse := rfl
@[simp] theorem consumeInput_cfg (s : State) : s.consumeInput.cfg = s.cfg := rfl
@[simp] theorem consumeInput_inputs (s : State) : s.consumeInput.inputs = s.inputs.tail := rfl
@[simp] theorem consumeInput_draws (s : State) : s.consumeInput.draws = if s.inputs = [] then s.draws + 1 else s.draws := rfl
@[simp] theorem consumeInput_readV (s : State) (q : RegNum) : s.consumeInput.readV q = s.readV q := rfl
@[simp] theorem consumeInput_readByte (s : State) (p : Nat) : s.consumeInput.readByte p = s.readByte p := rfl
@[simp] theorem consumeInput_key (s : State) (k : RegNum) : s.consumeInput.key k = s.key k := rfl
@[simp] theorem consumeInput_lowestKey (s : State) : s.consumeInput.lowestKey = s.lowestKey := rfl
@[simp] theorem consumeInput_isFaulted (s : State) : s.consumeInput.isFaulted = s.isFaulted := rfl
@[simp] theorem consumeInput_toneActive (s : State) : s.consumeInput.toneActive = s.toneActive := rfl

end Sys2Proof.Machine
end

