-- ==== Sys2Proof/Laws/Ops.lean ====
section
/-! SUPPORT. One lemma per shared operation that says everything it can do; provers cite these and do not unfold the
operations. -/

namespace Sys2Proof.Machine

/-! Registers. -/

theorem readV_setV (s : State) (x r : RegNum) (b : Byte) :
    (s.setV x b).readV r = if r = x then b else s.readV r := by
  simp only [State.readV, setV_v, Vector.getElem_set]
  by_cases same : r = x
  · subst same; simp
  · have other : x.val ≠ r.val := fun h => same (Fin.ext h.symm)
    simp [same, other]

@[simp] theorem readV_setV_same (s : State) (x : RegNum) (b : Byte) : (s.setV x b).readV x = b := by
  simp [readV_setV]

theorem readV_setFlag (s : State) (f : Bool) (r : RegNum) :
    (s.setFlag f).readV r = if r = 15 then flagByte f else s.readV r :=
  readV_setV s 15 r (flagByte f)

@[simp] theorem readV_setFlag_VF (s : State) (f : Bool) : (s.setFlag f).readV 15 = flagByte f := by
  simp [readV_setFlag]

theorem getElem_writeRegs (bytes : List Byte) (v : Vector Byte 16) (k : Nat) (r : RegNum) :
    (writeRegs v k bytes)[r.val] =
      if h : k ≤ r.val ∧ r.val < k + bytes.length then bytes[r.val - k] else v[r.val] := by
  induction bytes generalizing v k with
  | nil => simp [writeRegs]
  | cons b bytes ih =>
    simp only [writeRegs, ih, List.length_cons, Vector.getElem_setIfInBounds]
    by_cases first : r.val = k
    · have later : ¬(k + 1 ≤ r.val ∧ r.val < k + 1 + bytes.length) := by omega
      have inside : k ≤ r.val ∧ r.val < k + (bytes.length + 1) := by omega
      rw [dif_neg later, dif_pos inside, if_pos first.symm]
      simp [first]
    · by_cases inside : k + 1 ≤ r.val ∧ r.val < k + 1 + bytes.length
      · have whole : k ≤ r.val ∧ r.val < k + (bytes.length + 1) := by omega
        have shift : r.val - k = r.val - (k + 1) + 1 := by omega
        rw [dif_pos inside, dif_pos whole]
        simp [shift]
      · have outside : ¬(k ≤ r.val ∧ r.val < k + (bytes.length + 1)) := by omega
        rw [dif_neg inside, dif_neg outside, if_neg (fun h => first h.symm)]

/-- `V[0], V[1], ...` are the bytes, as far as they go; every other register is kept. -/
theorem readV_setVs (s : State) (bytes : List Byte) (r : RegNum) :
    (s.setVs bytes).readV r = if h : r.val < bytes.length then bytes[r.val] else s.readV r := by
  have all := getElem_writeRegs bytes s.v 0 r
  simp only [State.readV, setVs_v, all, Nat.zero_add, Nat.zero_le, true_and, Nat.sub_zero]

@[simp] theorem length_readVs (s : State) (x : RegNum) : (s.readVs x).length = x.val + 1 := by
  simp [State.readVs]

theorem getElem_readVs (s : State) (x : RegNum) (k : Nat) (h : k < (s.readVs x).length) :
    (s.readVs x)[k] = s.readV ⟨k, by have := x.isLt; simp at h; omega⟩ := by
  simp [State.readVs, State.readV]

/-! Memory. -/

theorem readByte_putBytes (s : State) (a j : Nat) (bytes : List Byte) :
    (s.putBytes a bytes).readByte j =
      if h : a ≤ j ∧ j < a + bytes.length then bytes[j - a] else s.readByte j :=
  read_writeList bytes s.mem a j

/-- No address of the access fails. -/
theorem firstFailing_eq_none {bad : Nat → Bool} {a n : Nat} :
    firstFailing bad a n = none ↔ ∀ b, a ≤ b → b < a + n → bad b = false := by
  simp only [firstFailing, List.find?_eq_none, List.mem_map, List.mem_range, Bool.not_eq_true]
  constructor
  · intro h b low high
    exact h b ⟨b - a, by omega, by omega⟩
  · rintro h b ⟨k, hk, rfl⟩
    exact h (a + k) (by omega) (by omega)

/-- The reported address is the first of the access that fails. -/
theorem firstFailing_eq_some {bad : Nat → Bool} {a n c : Nat} :
    firstFailing bad a n = some c ↔
      a ≤ c ∧ c < a + n ∧ bad c = true ∧ ∀ b, a ≤ b → b < c → bad b = false := by
  induction n with
  | zero =>
    simp only [firstFailing, List.range_zero, List.map_nil, List.find?_nil, reduceCtorEq, false_iff]
    omega
  | succ n ih =>
    have split : firstFailing bad a (n + 1) =
        (firstFailing bad a n).or (if bad (a + n) then some (a + n) else none) := by
      simp only [firstFailing, List.range_succ, List.map_append, List.find?_append, List.map_cons, List.map_nil,
        List.find?_cons, List.find?_nil]
      cases bad (a + n) <;> rfl
    rw [split]
    cases before : firstFailing bad a n with
    | some d =>
      rw [before] at ih
      rw [Option.some_or, ih]
      constructor
      · rintro ⟨low, high, fails, least⟩
        exact ⟨low, by omega, fails, least⟩
      · rintro ⟨low, high, fails, least⟩
        refine ⟨low, ?_, fails, least⟩
        rcases Nat.lt_or_ge c (a + n) with inside | last
        · exact inside
        · have found := before
          have none : firstFailing bad a n = none :=
            firstFailing_eq_none.mpr (fun b lo hi => least b lo (by omega))
          rw [none] at found
          cases found
    | none =>
      have earlier := firstFailing_eq_none.mp before
      simp only [Option.none_or]
      constructor
      · intro h
        split at h
        case isTrue fails =>
          cases h
          exact ⟨by omega, by omega, fails, fun b lo hi => earlier b lo hi⟩
        case isFalse => cases h
      · rintro ⟨low, high, fails, -⟩
        have last : c = a + n := by
          rcases Nat.lt_or_ge c (a + n) with inside | last
          · rw [earlier c low inside] at fails
            cases fails
          · omega
        subst last
        simp [fails]

theorem badRead_iff (a : Nat) : badRead a = true ↔ unreadable a := by simp [badRead, unreadable]

theorem badWrite_iff (s : State) (a : Nat) : badWrite s.cfg a = true ↔ unwritable s a := by
  simp [badWrite, unwritable]

theorem firstFailing_read_none {a n : Nat} : firstFailing badRead a n = none ↔ noneOf unreadable a n := by
  simp only [firstFailing_eq_none, noneOf, ← badRead_iff, Bool.not_eq_true]

theorem firstFailing_read_some {a n bad : Nat} :
    firstFailing badRead a n = some bad ↔ firstOf unreadable a n bad := by
  simp only [firstFailing_eq_some, firstOf, ← badRead_iff, Bool.not_eq_true]

theorem firstFailing_write_none {s : State} {a n : Nat} :
    firstFailing (badWrite s.cfg) a n = none ↔ noneOf (unwritable s) a n := by
  simp only [firstFailing_eq_none, noneOf, ← badWrite_iff, Bool.not_eq_true]

theorem firstFailing_write_some {s : State} {a n bad : Nat} :
    firstFailing (badWrite s.cfg) a n = some bad ↔ firstOf (unwritable s) a n bad := by
  simp only [firstFailing_eq_some, firstOf, ← badWrite_iff, Bool.not_eq_true]

/-- Everything a read can do: the first failing address, or every byte in order. -/
theorem memRead_cases (s : State) (a n : Nat) :
    (∃ bad, firstOf unreadable a n bad ∧ s.memRead a n = .error bad) ∨
    (noneOf unreadable a n ∧ s.memRead a n = .ok (s.bytesAt a n)) := by
  cases found : firstFailing badRead a n with
  | some bad => exact .inl ⟨bad, firstFailing_read_some.mp found, by simp [State.memRead, found]⟩
  | none => exact .inr ⟨firstFailing_read_none.mp found, by simp [State.memRead, found]⟩

theorem memRead_ok {s : State} {a n : Nat} (fits : noneOf unreadable a n) :
    s.memRead a n = .ok (s.bytesAt a n) := by
  simp [State.memRead, firstFailing_read_none.mpr fits]

theorem memRead_error {s : State} {a n bad : Nat} (first : firstOf unreadable a n bad) :
    s.memRead a n = .error bad := by
  simp [State.memRead, firstFailing_read_some.mpr first]

/-- Everything a write can do: the first failing address and nothing written, or every byte written. -/
theorem memWrite_cases (s : State) (a : Nat) (bytes : List Byte) :
    (∃ bad, firstOf (unwritable s) a bytes.length bad ∧ s.memWrite a bytes = .error bad) ∨
    (noneOf (unwritable s) a bytes.length ∧ s.memWrite a bytes = .ok (s.putBytes a bytes)) := by
  cases found : firstFailing (badWrite s.cfg) a bytes.length with
  | some bad => exact .inl ⟨bad, firstFailing_write_some.mp found, by simp [State.memWrite, found]⟩
  | none => exact .inr ⟨firstFailing_write_none.mp found, by simp [State.memWrite, found]⟩

theorem memWrite_ok {s : State} {a : Nat} {bytes : List Byte} (fits : noneOf (unwritable s) a bytes.length) :
    s.memWrite a bytes = .ok (s.putBytes a bytes) := by
  simp [State.memWrite, firstFailing_write_none.mpr fits]

theorem memWrite_error {s : State} {a bad : Nat} {bytes : List Byte}
    (first : firstOf (unwritable s) a bytes.length bad) : s.memWrite a bytes = .error bad := by
  simp [State.memWrite, firstFailing_write_some.mpr first]

@[simp] theorem length_bytesAt (s : State) (a n : Nat) : (s.bytesAt a n).length = n := by
  simp [State.bytesAt]

@[simp] theorem getElem_bytesAt (s : State) (a n k : Nat) (h : k < (s.bytesAt a n).length) :
    (s.bytesAt a n)[k] = s.readByte (a + k) := by
  simp [State.bytesAt]

/-- An access that stays inside the address space fails nowhere, and conversely. -/
theorem noneOf_unreadable {a n : Nat} (positive : 0 < n) : noneOf unreadable a n ↔ a + n ≤ 4096 := by
  simp only [noneOf, unreadable]
  constructor
  · intro h
    have last := h (a + n - 1) (by omega) (by omega)
    omega
  · intro h b low high
    omega

/-- A write that fails nowhere stays inside the address space. -/
theorem noneOf_unwritable_inside {s : State} {a n : Nat} (positive : 0 < n) (fits : noneOf (unwritable s) a n) :
    a + n ≤ 4096 := by
  have last := fits (a + n - 1) (by omega) (by omega)
  simp only [unwritable, not_or] at last
  omega

/-- A write that fails nowhere keeps the canonical form of memory. -/
theorem putBytes_keeps_wf {s : State} {a : Nat} {bytes : List Byte} (canonical : s.mem.wf s.cfg.font)
    (inside : a + bytes.length ≤ 4096) : (s.putBytes a bytes).mem.wf (s.putBytes a bytes).cfg.font :=
  writeList_keeps_wf canonical inside

/-! The return stack. -/

/-- Everything a push can do. -/
theorem push_cases (s : State) (w : Word) :
    (s.sp.val = 16 ∧ s.push w = none) ∨
    (∃ room : s.sp.val < 16,
      s.push w = some { s with stack := s.stack.set s.sp.val w, sp := ⟨s.sp.val + 1, by omega⟩ }) := by
  by_cases room : s.sp.val < 16
  · exact .inr ⟨room, by simp [State.push, room]⟩
  · exact .inl ⟨by have := s.sp.isLt; omega, by simp [State.push, room]⟩

/-- Everything a pop can do. -/
theorem pop_cases (s : State) :
    (s.sp.val = 0 ∧ s.pop = none) ∨
    (∃ held : 0 < s.sp.val,
      s.pop = some (s.stack[s.sp.val - 1]'(by have := s.sp.isLt; omega),
        { s with sp := ⟨s.sp.val - 1, by have := s.sp.isLt; omega⟩ })) := by
  by_cases held : 0 < s.sp.val
  · exact .inr ⟨held, by simp [State.pop, held]⟩
  · exact .inl ⟨by omega, by simp [State.pop, held]⟩

/-! Keys. -/

theorem lowestKey_none {s : State} : s.lowestKey = none ↔ ∀ k, s.key k = false := by
  simp [State.lowestKey, List.find?_eq_none]

/-- The key a key wait takes is pressed, and no lower-numbered one is. -/
theorem lowestKey_some {s : State} {k : RegNum} :
    s.lowestKey = some k ↔ s.key k = true ∧ ∀ j, j < k → s.key j = false := by
  constructor
  · intro found
    rw [State.lowestKey, List.find?_eq_some_iff_append] at found
    obtain ⟨pressed, before, after, order, least⟩ := found
    refine ⟨pressed, fun j lower => ?_⟩
    have member : j ∈ before ++ k :: after := order ▸ List.mem_finRange j
    have sorted : (before ++ k :: after).Pairwise (· < ·) := order ▸ List.pairwise_lt_finRange 16
    rcases List.mem_append.mp member with early | late
    · simpa using least j early
    · have later := (List.pairwise_append.mp sorted).2.1
      rw [List.pairwise_cons] at later
      rcases List.mem_cons.mp late with same | rest
      · exact absurd lower (same ▸ lt_irrefl k)
      · exact absurd lower (not_lt_of_gt (later.1 j rest))
  · rintro ⟨pressed, least⟩
    cases found : s.lowestKey with
    | none => rw [lowestKey_none.mp found k] at pressed; cases pressed
    | some d =>
      rw [State.lowestKey, List.find?_eq_some_iff_append] at found
      obtain ⟨pressedD, before, after, order, leastD⟩ := found
      have member : k ∈ before ++ d :: after := order ▸ List.mem_finRange k
      have sorted : (before ++ d :: after).Pairwise (· < ·) := order ▸ List.pairwise_lt_finRange 16
      rcases List.mem_append.mp member with early | late
      · have := leastD k early
        rw [pressed] at this
        cases this
      · rcases List.mem_cons.mp late with same | rest
        · rw [same]
        · have below := (List.pairwise_cons.mp (List.pairwise_append.mp sorted).2.1).1 k rest
          rw [least d below] at pressedD
          cases pressedD

/-- The key number in a register value, for both policies. -/
theorem keyOf_cases (policy : KeyIndexPolicy) (v : Byte) :
    (policy = .fault ∧ v.toNat > 0xF ∧ keyOf policy v = none) ∨
    ((policy = .mask ∨ v.toNat ≤ 0xF) ∧ keyOf policy v = some (Fin.ofNat 16 v.toNat)) := by
  cases policy with
  | mask => exact .inr ⟨.inl rfl, rfl⟩
  | fault =>
    by_cases big : v.toNat > 0xF
    · exact .inl ⟨rfl, big, by simp [keyOf, big]⟩
    · exact .inr ⟨.inr (by omega), by simp [keyOf, big]⟩

/-! The cycle. -/

/-- Everything a fetch can do (R72). -/
theorem fetch_cases (s : State) :
    (s.pc.toNat ≤ 0xFFE ∧
      s.fetch = .ok (wordOfBytes (s.readByte s.pc.toNat) (s.readByte (s.pc.toNat + 1)))) ∨
    (s.pc.toNat = 0xFFF ∧ s.fetch = .error 0x1000) ∨
    (s.pc.toNat > 0xFFF ∧ s.fetch = .error s.pc.toNat) := by
  by_cases inside : s.pc.toNat ≤ 0xFFE
  · left
    have fits : firstFailing badRead s.pc.toNat 2 = none :=
      firstFailing_read_none.mpr (fun b low high => by simp only [unreadable]; omega)
    exact ⟨inside, by simp [State.fetch, fits]⟩
  · by_cases edge : s.pc.toNat = 0xFFF
    · right; left
      have first : firstFailing badRead s.pc.toNat 2 = some 0x1000 :=
        firstFailing_read_some.mpr ⟨by omega, by omega, by simp [unreadable], fun b lo hi => by
          simp only [unreadable]; omega⟩
      exact ⟨edge, by simp [State.fetch, first]⟩
    · right; right
      have first : firstFailing badRead s.pc.toNat 2 = some s.pc.toNat :=
        firstFailing_read_some.mpr ⟨by omega, by omega, by simp only [unreadable]; omega, fun b lo hi => by omega⟩
      exact ⟨by omega, by simp [State.fetch, first]⟩

theorem countDown_toNat (t : Byte) : (countDown t).toNat = t.toNat - 1 := by
  unfold countDown
  split
  · have one : (1#8).toNat = 1 := rfl
    rw [BitVec.toNat_sub_of_le (by rw [BitVec.le_def, one]; omega), one]
  · omega

/-- Everything the end of a cycle can do. -/
theorem endCycle_cases (s : State) :
    (s.isFaulted = true ∧ s.endCycle = s.consumeInput) ∨
    (s.isFaulted = false ∧ s.input.tickEn = true ∧ s.endCycle = s.tick.consumeInput) ∨
    (s.isFaulted = false ∧ s.input.tickEn = false ∧ s.endCycle = s.quiet.consumeInput) := by
  cases faulted : s.isFaulted <;> cases enabled : s.input.tickEn <;> simp [State.endCycle, faulted, enabled]

@[simp] theorem isFaulted_running {s : State} (h : s.status = .running) : s.isFaulted = false := by
  simp [State.isFaulted, h]

@[simp] theorem isFaulted_raise (s : State) (r : FaultRecord) : (s.raise r).isFaulted = true := rfl

theorem isFaulted_iff {s : State} : s.isFaulted = true ↔ ∃ r, s.status = .faulted r := by
  unfold State.isFaulted
  cases s.status <;> simp

theorem raise_eq_faultedWith (s : State) (r : FaultRecord) : s.raise r = faultedWith s r := rfl

/-- What the host gives a cycle is what the cycle uses. -/
@[simp] theorem input_cons {s : State} {c : CycleInput} {rest : List CycleInput} (h : s.inputs = c :: rest) :
    s.input = c := by
  simp [State.input, h]

/-- The end of a cycle leaves all state but the timers, the pulse and the inputs. -/
theorem endCycle_frame (s : State) :
    s.endCycle.v = s.v ∧ s.endCycle.i = s.i ∧ s.endCycle.pc = s.pc ∧ s.endCycle.sp = s.sp ∧
    s.endCycle.stack = s.stack ∧ s.endCycle.fb = s.fb ∧ s.endCycle.redraw = s.redraw ∧
    s.endCycle.keys = s.keys ∧ s.endCycle.status = s.status ∧ s.endCycle.mem = s.mem ∧
    s.endCycle.cfg = s.cfg ∧ s.endCycle.inputs = s.inputs.tail ∧
    s.endCycle.draws = (if s.inputs = [] then s.draws + 1 else s.draws) := by
  rcases endCycle_cases s with ⟨-, h⟩ | ⟨-, -, h⟩ | ⟨-, -, h⟩ <;> rw [h] <;>
    exact ⟨rfl, rfl, rfl, rfl, rfl, rfl, rfl, rfl, rfl, rfl, rfl, rfl, rfl⟩

end Sys2Proof.Machine
end

