-- ==== Sys2Proof/Laws/Display.lean ====
section
/-! SUPPORT. What drawing a sprite does to each pixel and to the collision flag (43_display.md R102 to R104). -/

namespace Sys2Proof.Machine

theorem pixel_flip (fb : Framebuffer) (r row : Fin 32) (c col : Fin 64) :
    (fb.flip r c).pixel row col = if r = row ∧ c = col then !fb.pixel row col else fb.pixel row col := by
  simp only [Framebuffer.flip, Framebuffer.pixel, Vector.getElem_set]
  by_cases sameRow : r = row
  · subst sameRow
    by_cases sameCol : c = col
    · subst sameCol; simp
    · have other : c.val ≠ col.val := fun h => sameCol (Fin.ext h)
      simp [sameCol, other]
  · have other : r.val ≠ row.val := fun h => sameRow (Fin.ext h)
    simp [sameRow, other]

@[simp] theorem pixel_blank (row : Fin 32) (col : Fin 64) : Framebuffer.blank.pixel row col = false := by
  simp [Framebuffer.blank, Framebuffer.pixel]

/-- Framebuffers with the same pixels are equal. -/
theorem framebuffer_ext {f g : Framebuffer} (same : ∀ row col, f.pixel row col = g.pixel row col) : f = g := by
  apply Vector.ext
  intro row hrow
  apply Vector.ext
  intro col hcol
  exact same ⟨row, hrow⟩ ⟨col, hcol⟩

/-- Drawing pixels that are all different flips each of them, and collides exactly if one of them was set. -/
theorem foldl_xorPixel (pixels : List (Fin 32 × Fin 64)) (different : pixels.Nodup) (fb : Framebuffer) (hit : Bool) :
    (∀ row col, (pixels.foldl xorPixel (fb, hit)).1.pixel row col =
      if (row, col) ∈ pixels then !fb.pixel row col else fb.pixel row col) ∧
    ((pixels.foldl xorPixel (fb, hit)).2 = true ↔ hit = true ∨ ∃ p ∈ pixels, fb.pixel p.1 p.2 = true) := by
  induction pixels generalizing fb hit with
  | nil => simp
  | cons p pixels ih =>
    rw [List.nodup_cons] at different
    obtain ⟨pixel, flag⟩ := ih different.2 (fb.flip p.1 p.2) (hit || fb.pixel p.1 p.2)
    constructor
    · intro row col
      simp only [List.foldl_cons, xorPixel, pixel, List.mem_cons, pixel_flip]
      by_cases this : (row, col) = p
      · subst this
        simp [different.1]
      · have other : ¬(p.1 = row ∧ p.2 = col) := fun ⟨h1, h2⟩ => this (by rw [← h1, ← h2])
        simp [this, other]
    · simp only [List.foldl_cons, xorPixel, flag, List.mem_cons, Bool.or_eq_true, pixel_flip]
      have keep : ∀ q ∈ pixels, ¬(p.1 = q.1 ∧ p.2 = q.2) := fun q hq ⟨h1, h2⟩ =>
        different.1 (Prod.ext h1 h2 ▸ hq)
      constructor
      · rintro ((h | h) | ⟨q, hq, set⟩)
        · exact .inl h
        · exact .inr ⟨p, .inl rfl, h⟩
        · rw [if_neg (keep q hq)] at set
          exact .inr ⟨q, .inr hq, set⟩
      · rintro (h | ⟨q, rfl | hq, set⟩)
        · exact .inl (.inl h)
        · exact .inl (.inr set)
        · exact .inr ⟨q, hq, by rw [if_neg (keep q hq)]; exact set⟩

theorem mem_rowOffsets {b : Byte} {c : Nat} : c ∈ rowOffsets b ↔ c < 8 ∧ b.getLsbD (7 - c) = true := by
  simp [rowOffsets]

theorem mem_spriteOffsets {rows : List Byte} {k r c : Nat} :
    (r, c) ∈ spriteOffsets k rows ↔
      c < 8 ∧ ∃ h : k ≤ r ∧ r < k + rows.length, (rows[r - k]).getLsbD (7 - c) = true := by
  induction rows generalizing k with
  | nil => simp [spriteOffsets]
  | cons b rows ih =>
    simp only [spriteOffsets, List.mem_append, List.mem_map, Prod.mk.injEq, ih, mem_rowOffsets, List.length_cons]
    constructor
    · rintro (⟨d, ⟨small, bit⟩, rfl, rfl⟩ | ⟨small, inside, bit⟩)
      · exact ⟨small, ⟨Nat.le_refl _, by omega⟩, by simpa using bit⟩
      · have shift : r - k = r - (k + 1) + 1 := by omega
        exact ⟨small, ⟨by omega, by omega⟩, by simpa [shift] using bit⟩
    · rintro ⟨small, ⟨low, high⟩, bit⟩
      by_cases first : r = k
      · subst first
        exact .inl ⟨c, ⟨small, by simpa using bit⟩, rfl, rfl⟩
      · have shift : r - k = r - (k + 1) + 1 := by omega
        exact .inr ⟨small, ⟨by omega, by omega⟩, by simpa [shift] using bit⟩

theorem nodup_spriteOffsets (rows : List Byte) (k : Nat) : (spriteOffsets k rows).Nodup := by
  induction rows generalizing k with
  | nil => simp [spriteOffsets]
  | cons b rows ih =>
    rw [spriteOffsets, List.nodup_append]
    refine ⟨?_, ih (k + 1), ?_⟩
    · refine List.Nodup.map (fun a b h => by simpa using h) ?_
      exact List.Nodup.filter _ List.nodup_range
    · rintro ⟨r, c⟩ first ⟨r', c'⟩ later same
      simp only [List.mem_map, Prod.mk.injEq] at first
      obtain ⟨d, -, rfl, rfl⟩ := first
      obtain ⟨-, ⟨low, -⟩, -⟩ := mem_spriteOffsets.mp later
      have := (Prod.mk.inj same).1
      omega

/-- Where a sprite pixel lands, as a relation. -/
theorem landing_eq_some {edge : SpriteEdge} {r c : Nat} {row : Fin 32} {col : Fin 64} :
    landing edge r c = some (row, col) ↔
      match edge with
      | .wrap => r % 32 = row.val ∧ c % 64 = col.val
      | .clip => r = row.val ∧ c = col.val := by
  cases edge with
  | wrap => simp [landing, Fin.ext_iff, Fin.ofNat]
  | clip =>
    by_cases inside : r < 32 ∧ c < 64
    · simp [landing, inside, Fin.ext_iff]
    · simp only [landing, inside, dif_neg, not_false_eq_true, reduceCtorEq, false_iff]
      rintro ⟨rfl, rfl⟩
      exact inside ⟨row.isLt, col.isLt⟩

theorem mem_spritePixels {edge : SpriteEdge} {x0 y0 : Nat} {rows : List Byte} {row : Fin 32} {col : Fin 64} :
    (row, col) ∈ spritePixels edge x0 y0 rows ↔
      ∃ r c, c < 8 ∧ (∃ h : r < rows.length, (rows[r]).getLsbD (7 - c) = true) ∧
        landing edge (y0 + r) (x0 + c) = some (row, col) := by
  simp only [spritePixels, List.mem_filterMap, Prod.exists, mem_spriteOffsets, Nat.zero_add, Nat.zero_le, true_and,
    Nat.sub_zero, and_assoc]

/-- No pixel is touched twice: "a sprite is 8 columns wide (less than 64) and at most 15 rows high (less than 32)"
(R104). -/
theorem nodup_spritePixels (edge : SpriteEdge) (x0 y0 : Nat) {rows : List Byte} (short : rows.length ≤ 32) :
    (spritePixels edge x0 y0 rows).Nodup := by
  rw [spritePixels, List.Nodup, List.pairwise_filterMap]
  refine (nodup_spriteOffsets rows 0).imp_of_mem ?_
  rintro ⟨r, c⟩ ⟨r', c'⟩ here there differ ⟨row, col⟩ lands ⟨row', col'⟩ lands' same
  obtain ⟨small, ⟨-, high⟩, -⟩ := mem_spriteOffsets.mp here
  obtain ⟨small', ⟨-, high'⟩, -⟩ := mem_spriteOffsets.mp there
  cases same
  have place := landing_eq_some.mp lands
  have place' := landing_eq_some.mp lands'
  apply differ
  cases edge with
  | wrap =>
    simp only at place place'
    exact Prod.ext (by simp only; omega) (by simp only; omega)
  | clip =>
    simp only at place place'
    exact Prod.ext (by simp only; omega) (by simp only; omega)

/-- Everything drawing a sprite does: each pixel it covers is flipped, every other is kept, and it collides exactly if
a covered pixel was set. -/
theorem drawSprite_spec (edge : SpriteEdge) (x0 y0 : Nat) {rows : List Byte} (short : rows.length ≤ 32)
    (fb : Framebuffer) :
    (∀ row col, (drawSprite edge x0 y0 rows fb).1.pixel row col =
      if (row, col) ∈ spritePixels edge x0 y0 rows then !fb.pixel row col else fb.pixel row col) ∧
    ((drawSprite edge x0 y0 rows fb).2 = true ↔
      ∃ row col, (row, col) ∈ spritePixels edge x0 y0 rows ∧ fb.pixel row col = true) := by
  obtain ⟨pixel, flag⟩ := foldl_xorPixel _ (nodup_spritePixels edge x0 y0 short) fb false
  exact ⟨pixel, by rw [drawSprite, flag]; simp⟩

/-- The pixels a `DRW` touches are those its sprite in memory covers. -/
theorem mem_spritePixels_iff_covers {s : State} {x0 y0 n : Nat} {row : Fin 32} {col : Fin 64} :
    (row, col) ∈ spritePixels s.cfg.spriteEdge x0 y0 (s.bytesAt s.i.toNat n) ↔ spriteCovers s x0 y0 n row col := by
  simp only [mem_spritePixels, landing_eq_some, spriteCovers, length_bytesAt, getElem_bytesAt, exists_prop]
  constructor
  · rintro ⟨r, c, small, ⟨inside, bit⟩, place⟩
    exact ⟨r, c, inside, small, bit, place⟩
  · rintro ⟨r, c, inside, small, bit, place⟩
    exact ⟨r, c, small, ⟨inside, bit⟩, place⟩

end Sys2Proof.Machine
end

