-- ==== Sys2Proof/Laws/Encoding.lean ====
section
/-! SUPPORT. The fields of a word and the formats of the encoder as arithmetic on the word's number, so that claims
about encodings are decided by omega. -/

namespace Sys2Proof

/-- Concatenation as arithmetic. -/
theorem append_toNat {n m : Nat} (a : BitVec n) (b : BitVec m) :
    (a ++ b).toNat = a.toNat * 2 ^ m + b.toNat := by
  rw [BitVec.toNat_append, ← Nat.shiftLeft_add_eq_or_of_lt b.isLt, Nat.shiftLeft_eq]

theorem regNibble_toNat (x : RegNum) : (regNibble x).toNat = x.val := rfl

/-! Formats. -/

theorem formatA_toNat (op : Nibble) (nnn : Addr12) : (formatA op nnn).toNat = op.toNat * 4096 + nnn.toNat :=
  append_toNat op nnn

theorem formatXK_toNat (op : Nibble) (x : RegNum) (kk : Byte) :
    (formatXK op x kk).toNat = op.toNat * 4096 + x.val * 256 + kk.toNat := by
  have outer : (formatXK op x kk).toNat = (op ++ regNibble x).toNat * 2 ^ 8 + kk.toNat :=
    append_toNat (op ++ regNibble x) kk
  rw [outer, append_toNat, regNibble_toNat]
  omega

theorem formatX_toNat (op : Nibble) (x : RegNum) (sub : Byte) :
    (formatX op x sub).toNat = op.toNat * 4096 + x.val * 256 + sub.toNat :=
  formatXK_toNat op x sub

theorem formatXY_toNat (op n : Nibble) (x y : RegNum) :
    (formatXY op x y n).toNat = op.toNat * 4096 + x.val * 256 + y.val * 16 + n.toNat := by
  have outer : (formatXY op x y n).toNat = (op ++ regNibble x).toNat * 2 ^ 8 + (regNibble y ++ n).toNat :=
    append_toNat (op ++ regNibble x) (regNibble y ++ n)
  rw [outer, append_toNat, append_toNat, regNibble_toNat, regNibble_toNat]
  omega

/-! Fields. -/

theorem opField_toNat (w : Word) : (opField w).toNat = w.toNat / 4096 := by
  have bound := w.isLt
  simp only [opField, BitVec.extractLsb'_toNat, Nat.shiftRight_eq_div_pow]
  omega

theorem xField_val (w : Word) : (xField w).val = w.toNat / 256 % 16 := by
  have field : (xField w).val = (w.extractLsb' 8 4).toNat := rfl
  rw [field]
  simp only [BitVec.extractLsb'_toNat, Nat.shiftRight_eq_div_pow]

theorem yField_val (w : Word) : (yField w).val = w.toNat / 16 % 16 := by
  have field : (yField w).val = (w.extractLsb' 4 4).toNat := rfl
  rw [field]
  simp only [BitVec.extractLsb'_toNat, Nat.shiftRight_eq_div_pow]

theorem nField_toNat (w : Word) : (nField w).toNat = w.toNat % 16 := by
  simp only [nField, BitVec.extractLsb'_toNat, Nat.shiftRight_eq_div_pow]
  omega

theorem kkField_toNat (w : Word) : (kkField w).toNat = w.toNat % 256 := by
  simp only [kkField, BitVec.extractLsb'_toNat, Nat.shiftRight_eq_div_pow]
  omega

theorem nnnField_toNat (w : Word) : (nnnField w).toNat = w.toNat % 4096 := by
  simp only [nnnField, BitVec.extractLsb'_toNat, Nat.shiftRight_eq_div_pow]
  omega

theorem wordOfBytes_toNat (hi lo : Byte) : (wordOfBytes hi lo).toNat = hi.toNat * 256 + lo.toNat :=
  append_toNat hi lo

/-! A field of a format is what the format put there. -/

@[simp] theorem opField_formatA (op : Nibble) (nnn : Addr12) : opField (formatA op nnn) = op := by
  have bound := nnn.isLt
  apply BitVec.eq_of_toNat_eq
  rw [opField_toNat, formatA_toNat]
  omega

@[simp] theorem nnnField_formatA (op : Nibble) (nnn : Addr12) : nnnField (formatA op nnn) = nnn := by
  have bound := nnn.isLt
  apply BitVec.eq_of_toNat_eq
  rw [nnnField_toNat, formatA_toNat]
  omega

@[simp] theorem opField_formatXK (op : Nibble) (x : RegNum) (kk : Byte) : opField (formatXK op x kk) = op := by
  have bound := kk.isLt
  apply BitVec.eq_of_toNat_eq
  rw [opField_toNat, formatXK_toNat]
  omega

@[simp] theorem xField_formatXK (op : Nibble) (x : RegNum) (kk : Byte) : xField (formatXK op x kk) = x := by
  have bound := kk.isLt
  apply Fin.ext
  rw [xField_val, formatXK_toNat]
  omega

@[simp] theorem kkField_formatXK (op : Nibble) (x : RegNum) (kk : Byte) : kkField (formatXK op x kk) = kk := by
  have bound := kk.isLt
  apply BitVec.eq_of_toNat_eq
  rw [kkField_toNat, formatXK_toNat]
  omega

@[simp] theorem opField_formatX (op : Nibble) (x : RegNum) (sub : Byte) : opField (formatX op x sub) = op :=
  opField_formatXK op x sub

@[simp] theorem xField_formatX (op : Nibble) (x : RegNum) (sub : Byte) : xField (formatX op x sub) = x :=
  xField_formatXK op x sub

@[simp] theorem kkField_formatX (op : Nibble) (x : RegNum) (sub : Byte) : kkField (formatX op x sub) = sub :=
  kkField_formatXK op x sub

@[simp] theorem opField_formatXY (op n : Nibble) (x y : RegNum) : opField (formatXY op x y n) = op := by
  have bound := n.isLt
  apply BitVec.eq_of_toNat_eq
  rw [opField_toNat, formatXY_toNat]
  omega

@[simp] theorem xField_formatXY (op n : Nibble) (x y : RegNum) : xField (formatXY op x y n) = x := by
  have bound := n.isLt
  apply Fin.ext
  rw [xField_val, formatXY_toNat]
  omega

@[simp] theorem yField_formatXY (op n : Nibble) (x y : RegNum) : yField (formatXY op x y n) = y := by
  have bound := n.isLt
  apply Fin.ext
  rw [yField_val, formatXY_toNat]
  omega

@[simp] theorem nField_formatXY (op n : Nibble) (x y : RegNum) : nField (formatXY op x y n) = n := by
  have bound := n.isLt
  apply BitVec.eq_of_toNat_eq
  rw [nField_toNat, formatXY_toNat]
  omega

/-! A format of the fields of a word is the word. -/

theorem formatA_of_fields (w : Word) : formatA (opField w) (nnnField w) = w := by
  have bound := w.isLt
  apply BitVec.eq_of_toNat_eq
  rw [formatA_toNat, opField_toNat, nnnField_toNat]
  omega

theorem formatXK_of_fields (w : Word) : formatXK (opField w) (xField w) (kkField w) = w := by
  have bound := w.isLt
  apply BitVec.eq_of_toNat_eq
  rw [formatXK_toNat, opField_toNat, xField_val, kkField_toNat]
  omega

theorem formatX_of_fields (w : Word) : formatX (opField w) (xField w) (kkField w) = w := formatXK_of_fields w

theorem formatXY_of_fields (w : Word) : formatXY (opField w) (xField w) (yField w) (nField w) = w := by
  have bound := w.isLt
  apply BitVec.eq_of_toNat_eq
  rw [formatXY_toNat, opField_toNat, xField_val, yField_val, nField_toNat]
  omega

end Sys2Proof
end

