-- ==== Sys2Proof/Laws/PerInstr.lean ====
section
/-! SUPPORT. Statements made per instruction. The family TopNibble: the word of an instruction begins with the top nibble
its row of the opcode map has (30_encoding.md R60), the primary dispatch of the decoder (R62). -/

namespace Sys2Proof.Laws.TopNibble

/-- The top nibble of each row's pattern in R60. -/
def nibble : Instr → Nibble
  | .sys _ => 0x0#4
  | .cls => 0x0#4
  | .ret => 0x0#4
  | .jp _ => 0x1#4
  | .call _ => 0x2#4
  | .seImm _ _ => 0x3#4
  | .sneImm _ _ => 0x4#4
  | .seReg _ _ => 0x5#4
  | .ldImm _ _ => 0x6#4
  | .addImm _ _ => 0x7#4
  | .ldReg _ _ => 0x8#4
  | .orReg _ _ => 0x8#4
  | .andReg _ _ => 0x8#4
  | .xorReg _ _ => 0x8#4
  | .addReg _ _ => 0x8#4
  | .subReg _ _ => 0x8#4
  | .shr _ _ => 0x8#4
  | .subn _ _ => 0x8#4
  | .shl _ _ => 0x8#4
  | .sneReg _ _ => 0x9#4
  | .ldI _ => 0xA#4
  | .jpV0 _ => 0xB#4
  | .rnd _ _ => 0xC#4
  | .drw _ _ _ => 0xD#4
  | .skp _ => 0xE#4
  | .sknp _ => 0xE#4
  | .ldVxDT _ => 0xF#4
  | .ldVxK _ => 0xF#4
  | .ldDTVx _ => 0xF#4
  | .ldSTVx _ => 0xF#4
  | .addI _ => 0xF#4
  | .ldF _ => 0xF#4
  | .ldB _ => 0xF#4
  | .ldStore _ => 0xF#4
  | .ldLoad _ => 0xF#4

/-- The encoded word's top nibble is the row's. -/
def Statement (i : Instr) : Prop := opField (encode i) = nibble i

theorem sys (nnn : Addr12) : Statement (.sys nnn) := opField_formatA _ _
theorem cls : Statement .cls := by unfold Statement; decide
theorem ret : Statement .ret := by unfold Statement; decide
theorem jp (nnn : Addr12) : Statement (.jp nnn) := opField_formatA _ _
theorem call (nnn : Addr12) : Statement (.call nnn) := opField_formatA _ _
theorem seImm (x : RegNum) (kk : Byte) : Statement (.seImm x kk) := opField_formatXK _ _ _
theorem sneImm (x : RegNum) (kk : Byte) : Statement (.sneImm x kk) := opField_formatXK _ _ _
theorem seReg (x y : RegNum) : Statement (.seReg x y) := opField_formatXY _ _ _ _
theorem ldImm (x : RegNum) (kk : Byte) : Statement (.ldImm x kk) := opField_formatXK _ _ _
theorem addImm (x : RegNum) (kk : Byte) : Statement (.addImm x kk) := opField_formatXK _ _ _
theorem ldReg (x y : RegNum) : Statement (.ldReg x y) := opField_formatXY _ _ _ _
theorem orReg (x y : RegNum) : Statement (.orReg x y) := opField_formatXY _ _ _ _
theorem andReg (x y : RegNum) : Statement (.andReg x y) := opField_formatXY _ _ _ _
theorem xorReg (x y : RegNum) : Statement (.xorReg x y) := opField_formatXY _ _ _ _
theorem addReg (x y : RegNum) : Statement (.addReg x y) := opField_formatXY _ _ _ _
theorem subReg (x y : RegNum) : Statement (.subReg x y) := opField_formatXY _ _ _ _
theorem shr (x y : RegNum) : Statement (.shr x y) := opField_formatXY _ _ _ _
theorem subn (x y : RegNum) : Statement (.subn x y) := opField_formatXY _ _ _ _
theorem shl (x y : RegNum) : Statement (.shl x y) := opField_formatXY _ _ _ _
theorem sneReg (x y : RegNum) : Statement (.sneReg x y) := opField_formatXY _ _ _ _
theorem ldI (nnn : Addr12) : Statement (.ldI nnn) := opField_formatA _ _
theorem jpV0 (nnn : Addr12) : Statement (.jpV0 nnn) := opField_formatA _ _
theorem rnd (x : RegNum) (kk : Byte) : Statement (.rnd x kk) := opField_formatXK _ _ _
theorem drw (x y : RegNum) (n : Nibble) : Statement (.drw x y n) := opField_formatXY _ _ _ _
theorem skp (x : RegNum) : Statement (.skp x) := opField_formatX _ _ _
theorem sknp (x : RegNum) : Statement (.sknp x) := opField_formatX _ _ _
theorem ldVxDT (x : RegNum) : Statement (.ldVxDT x) := opField_formatX _ _ _
theorem ldVxK (x : RegNum) : Statement (.ldVxK x) := opField_formatX _ _ _
theorem ldDTVx (x : RegNum) : Statement (.ldDTVx x) := opField_formatX _ _ _
theorem ldSTVx (x : RegNum) : Statement (.ldSTVx x) := opField_formatX _ _ _
theorem addI (x : RegNum) : Statement (.addI x) := opField_formatX _ _ _
theorem ldF (x : RegNum) : Statement (.ldF x) := opField_formatX _ _ _
theorem ldB (x : RegNum) : Statement (.ldB x) := opField_formatX _ _ _
theorem ldStore (x : RegNum) : Statement (.ldStore x) := opField_formatX _ _ _
theorem ldLoad (x : RegNum) : Statement (.ldLoad x) := opField_formatX _ _ _

end Sys2Proof.Laws.TopNibble
end

