-- ==== Sys2Proof/Laws/Step.lean ====
section
/-! SUPPORT. What one step can do, said once. -/

namespace Sys2Proof.Machine

/-- A cycle that leaves a state ended the state its outcome left. -/
theorem finishCycle_next {r : Result} {t : State} (h : finishCycle r = .next t) :
    ∃ u, r = .next u ∧ t = u.endCycle := by
  cases r with
  | next u => cases h; exact ⟨u, rfl, rfl⟩
  | fault f => cases f
  | refused f => cases h

/-- A cycle that raised a fault ends without a tick: only its inputs are spent (R75). -/
@[simp] theorem endCycle_raise (s : State) (r : FaultRecord) : (s.raise r).endCycle = (s.raise r).consumeInput := by
  simp [State.endCycle]

/-- Everything a step that leaves a state can have done: nothing, if a fault had been taken; one cycle of a key wait; a
fetch fault; an illegal word; or an instruction, with the end of the cycle. -/
theorem step_cases {s t : State} (h : step s = .next t) :
    (∃ r, s.status = .faulted r ∧ t = s.consumeInput) ∨
    (∃ x, s.status = .awaitingKey x ∧ t = (s.keyWaitStep x).endCycle) ∨
    (∃ bad, s.status = .running ∧ s.fetch = .error bad ∧
      t = (s.raise (.memoryOutOfBounds s.pc none bad)).consumeInput) ∨
    (∃ w u, s.status = .running ∧ s.fetch = .ok w ∧ decode w = .unknownOpcode u ∧
      t = (s.raise (.unknownOpcode s.pc u)).consumeInput) ∨
    (∃ w i u, s.status = .running ∧ s.fetch = .ok w ∧ decode w = .instr i ∧ exec i s = .next u ∧
      t = u.endCycle) := by
  cases run : s.status with
  | faulted r =>
    simp only [step, run] at h
    cases h
    exact .inl ⟨r, rfl, rfl⟩
  | awaitingKey x =>
    simp only [step, run] at h
    cases h
    exact .inr (.inl ⟨x, rfl, rfl⟩)
  | running =>
    simp only [step, run] at h
    obtain ⟨u, left, rfl⟩ := finishCycle_next h
    simp only [runningCycle] at left
    right; right
    cases fetched : s.fetch with
    | error bad =>
      rw [fetched] at left
      cases left
      exact .inl ⟨bad, rfl, rfl, endCycle_raise ..⟩
    | ok w =>
      rw [fetched] at left
      cases decoded : decode w with
      | unknownOpcode v =>
        simp only [decoded] at left
        cases left
        exact .inr (.inl ⟨w, v, rfl, rfl, decoded, endCycle_raise ..⟩)
      | instr i =>
        simp only [decoded] at left
        exact .inr (.inr ⟨w, i, u, rfl, rfl, decoded, left, rfl⟩)

end Sys2Proof.Machine
end

