-- ==== Sys2Proof/Machine/Assembly.lean ====
section
/-! DEFINITION. The assembly syntax of 30_encoding.md R67: the mnemonic and operand spellings of R60, destination
first. The machine does not use it. How a number is written is read off the listings of 95_test_vectors.md (assumption
log 31, DEDUCED, safe). -/

namespace Sys2Proof.Machine

/-- A hex digit, `0` to `F`. -/
def hexDigit (n : Nat) : Char := if n % 16 < 10 then Char.ofNat (48 + n % 16) else Char.ofNat (55 + n % 16)

/-- A register: `V` and the register number as one hex digit (R67). -/
def regText (x : RegNum) : String := "V" ++ (hexDigit x.val).toString

/-- A `byte` operand, two hex digits. -/
def byteText (kk : Byte) : String := "0x" ++ (hexDigit (kk.toNat / 16)).toString ++ (hexDigit kk.toNat).toString

/-- An `addr` operand, three hex digits. -/
def addrText (nnn : Addr12) : String :=
  "0x" ++ (hexDigit (nnn.toNat / 256)).toString ++ (hexDigit (nnn.toNat / 16)).toString ++ (hexDigit nnn.toNat).toString

/-- A `nibble` operand, in decimal. -/
def nibbleText (n : Nibble) : String := toString n.toNat

/-- A mnemonic with one operand. -/
def text1 (mnemonic a : String) : String := mnemonic ++ " " ++ a

/-- A mnemonic with two operands, the destination first. -/
def text2 (mnemonic a b : String) : String := text1 mnemonic a ++ ", " ++ b

/-- The assembly line of an instruction (R60, R67). -/
def assemblyText : Instr → String
  | .sys nnn => text1 "SYS" (addrText nnn)
  | .cls => "CLS"
  | .ret => "RET"
  | .jp nnn => text1 "JP" (addrText nnn)
  | .call nnn => text1 "CALL" (addrText nnn)
  | .seImm x kk => text2 "SE" (regText x) (byteText kk)
  | .sneImm x kk => text2 "SNE" (regText x) (byteText kk)
  | .seReg x y => text2 "SE" (regText x) (regText y)
  | .ldImm x kk => text2 "LD" (regText x) (byteText kk)
  | .addImm x kk => text2 "ADD" (regText x) (byteText kk)
  | .ldReg x y => text2 "LD" (regText x) (regText y)
  | .orReg x y => text2 "OR" (regText x) (regText y)
  | .andReg x y => text2 "AND" (regText x) (regText y)
  | .xorReg x y => text2 "XOR" (regText x) (regText y)
  | .addReg x y => text2 "ADD" (regText x) (regText y)
  | .subReg x y => text2 "SUB" (regText x) (regText y)
  | .shr x y => text2 "SHR" (regText x) (regText y)
  | .subn x y => text2 "SUBN" (regText x) (regText y)
  | .shl x y => text2 "SHL" (regText x) (regText y)
  | .sneReg x y => text2 "SNE" (regText x) (regText y)
  | .ldI nnn => text2 "LD" "I" (addrText nnn)
  | .jpV0 nnn => text2 "JP" "V0" (addrText nnn)
  | .rnd x kk => text2 "RND" (regText x) (byteText kk)
  | .drw x y n => text2 "DRW" (regText x) (regText y) ++ ", " ++ nibbleText n
  | .skp x => text1 "SKP" (regText x)
  | .sknp x => text1 "SKNP" (regText x)
  | .ldVxDT x => text2 "LD" (regText x) "DT"
  | .ldVxK x => text2 "LD" (regText x) "K"
  | .ldDTVx x => text2 "LD" "DT" (regText x)
  | .ldSTVx x => text2 "LD" "ST" (regText x)
  | .addI x => text2 "ADD" "I" (regText x)
  | .ldF x => text2 "LD" "F" (regText x)
  | .ldB x => text2 "LD" "B" (regText x)
  | .ldStore x => text2 "LD" "[I]" (regText x)
  | .ldLoad x => text2 "LD" (regText x) "[I]"

end Sys2Proof.Machine
end

