-- ==== Sys2Proof/Tests/Slice0.lean ====
section
/-! SUPPORT. The model's own tests: the ill-formed terms, a word of every row of the opcode map, one-step vectors of
95_test_vectors.md (each theorem names its vector), and for every statement with hypotheses a state and operands that
meet them, clause by clause at the boundaries. -/

namespace Sys2Proof.Machine.Tests

/-! Helpers. -/

/-- The state a result leaves, if it leaves one. -/
def leaves : Result → Option State
  | .next t => some t
  | .fault f => nomatch f
  | .refused _ => none

/-- The conventions of 95_test_vectors.md: the word at `PC`, and one cycle with a tick and `rnd = 0x00`. -/
def runWord (w : Nat) (s : State) : Option State := leaves (hostCycle true 0x00#8 (s.withFetchWord 16 w))

/-- What a test looks at: `PC`, one register, and `VF`. -/
def look (x : RegNum) (t : Option State) : Option (Word × Byte × Byte) :=
  t.map (fun u => (u.pc, u.readV x, u.readV 15))

/-- The pixels of some columns of one row. -/
def pixelsAt (row : Fin 32) (cols : List (Fin 64)) (s : State) : List Bool := cols.map (s.fb.pixel row)

/-- The reset state with two registers given. -/
def regs2 (x : RegNum) (a : Byte) (y : RegNum) (b : Byte) : State := (State.reset.setV x a).setV y b

/-- The reset state with other parameters. -/
def withCfg (c : Config) : State := State.resetOf c

/-- The reset state with a given stack pointer. -/
def withSp (n : Fin 17) : State := { State.reset with sp := n }

/-- The parameters that are not the defaults. -/
def otherCfg : Config where
  shiftSource := .vy
  spriteEdge := .clip
  keyIndexPolicy := .fault
  lowMemoryWrite := .fault
  font := defaultFont

/-! Well-formedness (30_encoding.md R60): the two ill-formed terms. -/

theorem test_sys_of_cls_word_is_ill_formed : (Instr.sys 0x0E0#12).wellFormed = false := by decide

theorem test_sys_of_ret_word_is_ill_formed : (Instr.sys 0x0EE#12).wellFormed = false := by decide

/-! Decoding: the words of 95_test_vectors.md L1.1, every constructor; and one word of each format in bits. -/

theorem test_decode_control_flow :
    decode 0x1ABC#16 = .instr (.jp 0xABC#12) ∧ decode 0x2ABC#16 = .instr (.call 0xABC#12) ∧
    decode 0x00EE#16 = .instr .ret ∧ decode 0xBABC#16 = .instr (.jpV0 0xABC#12) ∧
    decode 0x3A42#16 = .instr (.seImm 0xA 0x42#8) ∧ decode 0x4A42#16 = .instr (.sneImm 0xA 0x42#8) ∧
    decode 0x5AB0#16 = .instr (.seReg 0xA 0xB) ∧ decode 0x9AB0#16 = .instr (.sneReg 0xA 0xB) := by decide

theorem test_decode_loads_and_logic :
    decode 0x6A42#16 = .instr (.ldImm 0xA 0x42#8) ∧ decode 0x7A42#16 = .instr (.addImm 0xA 0x42#8) ∧
    decode 0x8AB0#16 = .instr (.ldReg 0xA 0xB) ∧ decode 0x8AB1#16 = .instr (.orReg 0xA 0xB) ∧
    decode 0x8AB2#16 = .instr (.andReg 0xA 0xB) ∧ decode 0x8AB3#16 = .instr (.xorReg 0xA 0xB) := by decide

theorem test_decode_arithmetic_shift_random :
    decode 0x8AB4#16 = .instr (.addReg 0xA 0xB) ∧ decode 0x8AB5#16 = .instr (.subReg 0xA 0xB) ∧
    decode 0x8AB6#16 = .instr (.shr 0xA 0xB) ∧ decode 0x8AB7#16 = .instr (.subn 0xA 0xB) ∧
    decode 0x8ABE#16 = .instr (.shl 0xA 0xB) ∧ decode 0xCA42#16 = .instr (.rnd 0xA 0x42#8) := by decide

theorem test_decode_display_and_memory :
    decode 0xDAB5#16 = .instr (.drw 0xA 0xB 0x5#4) ∧ decode 0x00E0#16 = .instr .cls ∧
    decode 0xFA33#16 = .instr (.ldB 0xA) ∧ decode 0xFA55#16 = .instr (.ldStore 0xA) ∧
    decode 0xFA65#16 = .instr (.ldLoad 0xA) := by decide

theorem test_decode_timers_and_keys :
    decode 0xFA07#16 = .instr (.ldVxDT 0xA) ∧ decode 0xFA0A#16 = .instr (.ldVxK 0xA) ∧
    decode 0xFA15#16 = .instr (.ldDTVx 0xA) ∧ decode 0xFA18#16 = .instr (.ldSTVx 0xA) ∧
    decode 0xEA9E#16 = .instr (.skp 0xA) ∧ decode 0xEAA1#16 = .instr (.sknp 0xA) := by decide

theorem test_decode_index_and_system :
    decode 0xAABC#16 = .instr (.ldI 0xABC#12) ∧ decode 0xFA1E#16 = .instr (.addI 0xA) ∧
    decode 0xFA29#16 = .instr (.ldF 0xA) ∧ decode 0x0123#16 = .instr (.sys 0x123#12) := by decide

/-- Bit by bit from R57, R58 and R60: `op`, `x`, `y` or `kk`, `n`. -/
theorem test_decode_words_in_bits :
    decode 0b0001101010111100#16 = .instr (.jp 0xABC#12) ∧
    decode 0b0011101001000010#16 = .instr (.seImm 0xA 0x42#8) ∧
    decode 0b1000000111100101#16 = .instr (.subReg 0x1 0xE) ∧
    decode 0b1101001001110101#16 = .instr (.drw 0x2 0x7 0x5#4) ∧
    decode 0b1111110000110011#16 = .instr (.ldB 0xC) ∧
    decode 0b1110010010011110#16 = .instr (.skp 0x4) ∧
    decode 0b1010000000000001#16 = .instr (.ldI 0x001#12) := by decide

theorem test_decode_unknown_words :
    decode 0x5AB1#16 = .unknownOpcode 0x5AB1#16 ∧ decode 0x8AB8#16 = .unknownOpcode 0x8AB8#16 ∧
    decode 0x8ABF#16 = .unknownOpcode 0x8ABF#16 ∧ decode 0x9AB1#16 = .unknownOpcode 0x9AB1#16 ∧
    decode 0xEA9F#16 = .unknownOpcode 0xEA9F#16 ∧ decode 0xFA00#16 = .unknownOpcode 0xFA00#16 ∧
    decode 0xFFFF#16 = .unknownOpcode 0xFFFF#16 := by decide

theorem test_table_word : decodeTableWord 16 0xD275 = some (.drw 0x2 0x7 0x5#4) := by decide

/-- Two bytes in memory order, big-endian; the rest is left over (R45, R56). -/
theorem test_decode_bytes :
    decodeBytes [0x2A#8, 0xBC#8, 0x00#8] = some (.instr (.call 0xABC#12), [0x00#8]) ∧
    decodeBytes [0x2A#8] = none := by decide

/-- Lines of the listings of programs P2 and P3 (R67). -/
theorem test_assembly_text : assemblyText (.drw 0xA 0xB 0x5#4) = "DRW VA, VB, 5" ∧
    assemblyText (.ldImm 0xA 0x3E#8) = "LD VA, 0x3E" ∧ assemblyText (.call 0x210#12) = "CALL 0x210" ∧
    assemblyText (.ldLoad 0x2) = "LD V2, [I]" := by decide

/-! Control flow: CF1, CF4, CF5, CF6, CF7, CF10, CF11, CF14, CF17, CF19. -/

theorem test_jp_CF1 : (runWord 0x1234 State.reset).map (·.pc) = some 0x234#16 := by decide

theorem test_call_CF4 : (runWord 0x2300 State.reset).map (fun t => (t.stack[0], t.sp, t.pc)) =
    some (0x202#16, 1, 0x300#16) := by decide

theorem test_call_overflow_CF5 : (runWord 0x2200 (withSp 16)).map (fun t => (t.status, t.sp, t.pc)) =
    some (.faulted (.stackOverflow 0x200#16 0x2200#16), 16, 0x200#16) := by decide

theorem test_ret_CF7 : (runWord 0x00EE { State.reset with sp := 2, stack := State.reset.stack.set 1 0x456#16 }).map
    (fun t => (t.sp, t.pc)) = some (1, 0x456#16) := by decide

theorem test_ret_underflow_CF6 : (runWord 0x00EE State.reset).map (fun t => (t.status, t.pc)) =
    some (.faulted (.stackUnderflow 0x200#16 0x00EE#16), 0x200#16) := by decide

theorem test_jpV0_CF10 : (runWord 0xBFFF (State.reset.setV 0 0xFF#8)).map (·.pc) = some 0x10FE#16 := by decide

theorem test_seImm_CF11_CF12 : (runWord 0x3342 (State.reset.setV 3 0x42#8)).map (·.pc) = some 0x204#16 ∧
    (runWord 0x3342 (State.reset.setV 3 0x41#8)).map (·.pc) = some 0x202#16 := by decide

theorem test_sneImm_CF14_CF15 : (runWord 0x4342 (State.reset.setV 3 0x41#8)).map (·.pc) = some 0x204#16 ∧
    (runWord 0x4342 (State.reset.setV 3 0x42#8)).map (·.pc) = some 0x202#16 := by decide

theorem test_seReg_CF16 : (runWord 0x5120 (regs2 1 0x07#8 2 0x07#8)).map (·.pc) = some 0x204#16 := by decide

theorem test_sneReg_CF19_CF20 : (runWord 0x9120 (regs2 1 0x07#8 2 0x08#8)).map (·.pc) = some 0x204#16 ∧
    (runWord 0x9110 (State.reset.setV 1 0x07#8)).map (·.pc) = some 0x202#16 := by decide

/-! Load, arithmetic, logic, shift, random: the AL vectors. -/

theorem test_ldImm_AL1 : look 15 (runWord 0x6FAA State.reset) = some (0x202#16, 0xAA#8, 0xAA#8) := by decide

theorem test_addImm_AL2 : look 0 (runWord 0x70FF (State.reset.setV 15 0x55#8)) =
    some (0x202#16, 0xFF#8, 0x55#8) := by decide

theorem test_addImm_into_VF_AL3 : look 15 (runWord 0x7F01 (State.reset.setV 15 0xFF#8)) =
    some (0x202#16, 0x00#8, 0x00#8) := by decide

theorem test_ldReg_AL4 : look 0 (runWord 0x8010 (State.reset.setV 1 0x33#8)) =
    some (0x202#16, 0x33#8, 0x00#8) := by decide

theorem test_or_AL5 : look 0 (runWord 0x8011 ((regs2 0 0x0F#8 1 0xF0#8).setV 15 0x55#8)) =
    some (0x202#16, 0xFF#8, 0x55#8) := by decide

theorem test_and_AL6 : look 0 (runWord 0x8012 ((regs2 0 0x3C#8 1 0x0F#8).setV 15 0x55#8)) =
    some (0x202#16, 0x0C#8, 0x55#8) := by decide

theorem test_xor_AL7 : look 0 (runWord 0x8013 ((regs2 0 0x3C#8 1 0x3C#8).setV 15 0x55#8)) =
    some (0x202#16, 0x00#8, 0x55#8) := by decide

/-- The source's own example (L1.2). -/
theorem test_addReg_L1_2 : look 0 (runWord 0x8014 (regs2 0 0xFF#8 1 0x01#8)) =
    some (0x202#16, 0x00#8, 0x01#8) := by decide

theorem test_addReg_into_VF_AL12 : look 15 (runWord 0x8F14 (regs2 15 0x10#8 1 0xF5#8)) =
    some (0x202#16, 0x01#8, 0x01#8) := by decide

/-- The source's own example (L1.3). -/
theorem test_subReg_L1_3 : look 0 (runWord 0x8015 (regs2 0 0x01#8 1 0x02#8)) =
    some (0x202#16, 0xFF#8, 0x00#8) := by decide

theorem test_subReg_equal_AL14 : look 0 (runWord 0x8015 (regs2 0 0x05#8 1 0x05#8)) =
    some (0x202#16, 0x00#8, 0x01#8) := by decide

theorem test_subn_AL18 : look 0 (runWord 0x8017 (regs2 0 0x02#8 1 0x01#8)) =
    some (0x202#16, 0xFF#8, 0x00#8) := by decide

theorem test_subn_into_VF_AL20 : look 15 (runWord 0x8F17 (regs2 15 0x01#8 1 0x03#8)) =
    some (0x202#16, 0x01#8, 0x01#8) := by decide

theorem test_shr_AL21_AL25 : look 0 (runWord 0x8006 (State.reset.setV 0 0x01#8)) =
    some (0x202#16, 0x00#8, 0x01#8) ∧
    look 1 (runWord 0x8126 (State.reset.setV 2 0x05#8)) = some (0x202#16, 0x00#8, 0x00#8) := by decide

theorem test_shr_of_VY_AL24 : look 1 (runWord 0x8126 ((withCfg otherCfg).setV 2 0x05#8)) =
    some (0x202#16, 0x02#8, 0x01#8) := by decide

theorem test_shl_AL26_AL28 : look 0 (runWord 0x800E (State.reset.setV 0 0x80#8)) =
    some (0x202#16, 0x00#8, 0x01#8) ∧
    look 15 (runWord 0x8F0E (State.reset.setV 15 0xC0#8)) = some (0x202#16, 0x01#8, 0x01#8) := by decide

theorem test_shl_of_VY_AL29 : look 1 (runWord 0x812E ((withCfg otherCfg).setV 2 0x81#8)) =
    some (0x202#16, 0x02#8, 0x01#8) := by decide

theorem test_rnd_AL30 : look 3 (leaves (hostCycle true 0xAB#8 (State.reset.withFetchWord 16 0xC3F0))) =
    some (0x202#16, 0xA0#8, 0x00#8) := by decide

/-! Display: DR1, DR4, DR5, DR6, DR9. -/

theorem test_drw_DR1 : (runWord 0xD015 ((regs2 0 0x45#8 1 0x21#8).setI 0x005#16)).map
    (fun t => (pixelsAt 2 [5, 6, 7, 8] t, pixelsAt 5 [5, 6, 7, 8] t, t.readV 15, t.redraw)) =
    some ([false, true, true, false], [false, true, true, true], 0x00#8, true) := by decide

theorem test_drw_wrap_and_clip_DR4_DR5 :
    (runWord 0xDAB1 (regs2 10 0x3F#8 11 0x1F#8)).map (pixelsAt 31 [0, 2, 3, 62, 63]) =
      some [true, true, false, false, true] ∧
    (runWord 0xDAB1 (((withCfg otherCfg).setV 10 0x3F#8).setV 11 0x1F#8)).map (pixelsAt 31 [0, 2, 3, 62, 63]) =
      some [false, false, false, false, true] := by decide

theorem test_cls_DR9 : (runWord 0x00E0 ((State.reset.setDisplay (State.reset.fb.flip 3 5)).setV 15 0x12#8)).map (fun t => (pixelsAt 3 [4, 5] t, t.readV 15, t.redraw)) =
    some ([false, false], 0x12#8, true) := by decide

/-! BCD and memory block: MB1, MB2, MB4, MB7, MB9, MB11. -/

theorem test_ldB_MB1 : (runWord 0xF033 ((State.reset.setV 0 0x80#8).setI 0x400#16)).map
    (fun t => (t.bytesAt 0x400 3, t.i)) = some ([0x01#8, 0x02#8, 0x08#8], 0x400#16) := by decide

theorem test_ldB_fault_MB2 : (runWord 0xF033 (State.reset.setI 0xFFE#16)).map (fun t => (t.status, t.bytesAt 0xFFE 2)) =
    some (.faulted (.memoryOutOfBounds 0x200#16 (some 0xF033#16) 0x1000), [0x00#8, 0x00#8]) := by decide

theorem test_ldStore_MB4 : (runWord 0xF155 ((regs2 0 0x12#8 1 0x34#8).setI 0x400#16)).map
    (fun t => (t.bytesAt 0x400 3, t.i)) = some ([0x12#8, 0x34#8, 0x00#8], 0x400#16) := by decide

theorem test_ldStore_protected_MB7 : (runWord 0xF155 ((withCfg otherCfg).setI 0x1FF#16)).map
    (fun t => (t.status, t.bytesAt 0x1FF 2)) =
    some (.faulted (.memoryOutOfBounds 0x200#16 (some 0xF155#16) 0x1FF), [0x00#8, 0xF1#8]) := by decide

theorem test_ldLoad_MB10 : (runWord 0xFF65 State.reset).map (fun t => (t.v.toList, t.i)) =
    some ([0xF0#8, 0x90#8, 0x90#8, 0x90#8, 0xF0#8, 0x20#8, 0x60#8, 0x20#8, 0x20#8, 0x70#8, 0xF0#8, 0x10#8, 0xF0#8,
      0x80#8, 0xF0#8, 0xF0#8], 0x0000#16) := by decide

theorem test_ldLoad_fault_MB11 : (runWord 0xF065 (State.reset.setI 0x1000#16)).map (·.status) =
    some (.faulted (.memoryOutOfBounds 0x200#16 (some 0xF065#16) 0x1000)) := by decide

/-! Timers and keys: TK1, TK2, TK3, TK6, TK7, TK8, TK9, TK10, TK11, TK12, TK13. -/

theorem test_ldVxDT_TK1 : (runWord 0xF307 (State.reset.setDt 0x20#8)).map (fun t => (t.readV 3, t.dt)) =
    some (0x20#8, 0x1F#8) := by decide

theorem test_ldDTVx_TK2_TK3 : (runWord 0xF015 (State.reset.setV 0 0x03#8)).map (·.dt) = some 0x02#8 ∧
    (leaves (hostCycle false 0x00#8 ((State.reset.setV 0 0x03#8).withFetchWord 16 0xF015))).map (·.dt) =
      some 0x03#8 := by decide

theorem test_ldSTVx_TK6 : (runWord 0xF018 (State.reset.setV 0 0x01#8)).map (fun t => (t.st, t.tonePulse, t.toneActive)) =
    some (0x00#8, true, false) := by decide

theorem test_skp_TK7_TK10 :
    (runWord 0xE29E (hostSetKey 7 true (State.reset.setV 2 0x07#8))).map (·.pc) = some 0x204#16 ∧
    (runWord 0xE09E (hostSetKey 7 true (State.reset.setV 0 0x17#8))).map (·.pc) = some 0x204#16 := by decide

theorem test_skp_fault_TK11 : (runWord 0xE09E ((withCfg otherCfg).setV 0 0x10#8)).map (·.status) =
    some (.faulted (.keyOutOfRange 0x200#16 0xE09E#16 0x10#8)) := by decide

theorem test_sknp_TK9 : (runWord 0xE2A1 (State.reset.setV 2 0x07#8)).map (·.pc) = some 0x204#16 := by decide

theorem test_ldVxK_TK12 : (runWord 0xF30A (hostSetKey 9 true (hostSetKey 3 true State.reset))).map
    (fun t => (t.readV 3, t.pc, t.status)) = some (0x03#8, 0x202#16, .running) := by decide

theorem test_ldVxK_waits_TK13 : (runWord 0xF30A State.reset).map (fun t => (t.status, t.pc)) =
    some (.awaitingKey 3, 0x200#16) := by decide

/-! Index, font, system: IX1, IX2, IX3, IX4, IX6, IX7. -/

theorem test_ldI_IX1 : (runWord 0xA300 State.reset).map (·.i) = some 0x0300#16 := by decide

theorem test_addI_IX2_IX3 :
    (runWord 0xF11E ((regs2 1 0x01#8 15 0x33#8).setI 0x0FFF#16)).map (fun t => (t.i, t.readV 15)) =
      some (0x1000#16, 0x33#8) ∧
    (runWord 0xF11E ((State.reset.setV 1 0xFF#8).setI 0xFFFF#16)).map (·.i) = some 0x00FE#16 := by decide

theorem test_ldF_IX4_IX6 : (runWord 0xF029 (State.reset.setV 0 0x05#8)).map (·.i) = some 0x0019#16 ∧
    (runWord 0xF029 (State.reset.setV 0 0x1A#8)).map (·.i) = some 0x0032#16 := by decide

theorem test_sys_IX7 : (runWord 0x0123 State.reset).map (fun t => (t.pc, t.v, t.i, t.sp)) =
    some (0x202#16, State.reset.v, 0x0000#16, 0) := by decide

/-! The cycle: CF2's second cycle, CF18, TK15, and EX2. -/

theorem test_fetch_fault_CF2 : (leaves (hostCycle true 0x00#8 (State.reset.setPc 0xFFF#16))).map (·.status) =
    some (.faulted (.memoryOutOfBounds 0xFFF#16 none 0x1000)) := by decide

theorem test_unknown_word_CF18_keeps_timers : (runWord 0x5121 (State.reset.setDt 0x04#8)).map (fun t => (t.status, t.dt)) =
    some (.faulted (.unknownOpcode 0x200#16 0x5121#16), 0x04#8) := by decide

theorem test_key_wait_ends_TK15 :
    (leaves (hostCycle true 0x00#8 (hostSetKey 0xC true
      (((State.reset.setStatus (.awaitingKey 3)).setPc 0x204#16).setDt 0x01#8)))).map
      (fun t => (t.readV 3, t.pc, t.status, t.dt)) = some (0x0C#8, 0x206#16, .running, 0x00#8) := by decide

/-! Witnesses: for every statement with hypotheses, a state and operands that meet all of them, clause by clause. -/

/-- The reset state with an instruction's word at `PC`, about to run a cycle with a tick. -/
def ready (i : Instr) (s : State) : State :=
  { s.withFetchWord 16 (encode i).toNat with inputs := [⟨true, 0x5A#8⟩] }

/-- Encoding: a well-formed instruction, a word that decodes, a word a row selects, a word no row selects. -/
theorem test_meets_DecodeOfEncode : (Instr.sys 0x0EF#12).wellFormed = true := by decide

theorem test_meets_EncodeOfDecode : decode 0x00E1#16 = .instr (.sys 0x0E1#12) := by decide

theorem test_meets_DecoderFollows_selected :
    (⟨0x0000, 0xF000, [0x00E0, 0x00EE], fun w => .sys (mapNNN w)⟩ : OpcodeRow).selects 0x00E1 ∧
    ¬(⟨0x0000, 0xF000, [0x00E0, 0x00EE], fun w => .sys (mapNNN w)⟩ : OpcodeRow).selects 0x00E0 ∧
    (⟨0xF065, 0xF0FF, [], fun w => .ldLoad (mapX w)⟩ : OpcodeRow).selects 0xFA65 := by
  simp only [OpcodeRow.selects]; decide

theorem test_meets_DecoderFollows_unselected : ∀ r ∈ opcodeMap, ¬r.selects 0x5AB1 := by
  simp [OpcodeRow.selects, opcodeMap, opcodeMapLow, opcodeMapMid, opcodeMapHigh]

/-- `CALL` and `RET`: the last free entry, a full stack, one entry, a full stack, none. -/
theorem test_meets_Call_room : (withSp 15).sp.val < 16 := by decide

theorem test_meets_Call_full : (withSp 16).sp.val = 16 := by decide

theorem test_meets_Return_entry : (withSp 1).sp.val = (0 : Fin 16).val + 1 ∧
    (withSp 16).sp.val = (15 : Fin 16).val + 1 := by decide

theorem test_meets_Return_empty : (withSp 0).sp.val = 0 := by decide

theorem test_meets_ReturnUndoesCall : (withSp 15).sp.val < 16 ∧
    ∃ t u, exec (.call 0x300#12) (withSp 15) = .next t ∧ exec .ret t = .next u :=
  ⟨by decide, _, _, rfl, rfl⟩

/-- Shifts: each value of `SHIFT_SOURCE`. -/
theorem test_meets_Shifts : State.reset.cfg.shiftSource = .vx ∧ (withCfg otherCfg).cfg.shiftSource = .vy := by decide

/-- A cycle that runs no `RND`. -/
theorem test_meets_OnlyRandom : ∀ w x kk, State.reset.status = .running → State.reset.fetch = .ok w →
    decode w ≠ .instr (.rnd x kk) := by
  intro w x kk _ fetched
  obtain rfl : (0x0000#16 : Word) = w := Except.ok.inj fetched
  intro decoded
  cases decoded

/-- The six instructions that set a flag, without a fault. -/
theorem test_meets_Flag : ∃ t : State, exec (.addReg 0 1) State.reset = .next t ∧ t.safe := ⟨_, rfl, rfl⟩

theorem test_meets_Flag_draw : ∃ t : State, exec (.drw 0 1 0x5#4) State.reset = .next t ∧ t.safe := ⟨_, rfl, rfl⟩

/-- Sprites: the last five bytes of memory, and one byte past them, under both edges. -/
theorem test_meets_Draw_readable : noneOf unreadable ((withCfg otherCfg).setI 0xFFB#16).i.toNat (0x5#4).toNat := by
  intro b _ above (bad : b > 0xFFF)
  have : b < 0xFFB + 5 := above
  omega

theorem test_meets_Draw_fault : firstOf unreadable (State.reset.setI 0xFFC#16).i.toNat (0x5#4).toNat 0x1000 :=
  ⟨by decide, by decide, by show 0x1000 > 0xFFF; decide, fun b _ below (bad : b > 0xFFF) => by omega⟩

theorem test_meets_Draw_fault_beyond :
    firstOf unreadable (State.reset.setI 0xFFFF#16).i.toNat (0x1#4).toNat 0xFFFF :=
  ⟨by decide, by decide, by show 0xFFFF > 0xFFF; decide, fun b above below _ => by
    have : 0xFFFF ≤ b := above
    omega⟩

theorem test_meets_Draw_collision : spriteCovers State.reset 0 0 5 0 3 ∧
    (State.reset.setDisplay (State.reset.fb.flip 0 3)).fb.pixel 0 3 = true :=
  ⟨⟨0, 3, by decide, by decide, by decide, rfl, rfl⟩, by decide⟩

theorem test_meets_DrawTwice : noneOf unreadable State.reset.i.toNat (0x5#4).toNat ∧
    ∃ t u, exec (.drw 0 1 0x5#4) State.reset = .next t ∧ exec (.drw 0 1 0x5#4) t = .next u ∧
      (t.readV 0).toNat % 64 = (State.reset.readV 0).toNat % 64 ∧
      (t.readV 1).toNat % 32 = (State.reset.readV 1).toNat % 32 := by
  refine ⟨?_, _, _, rfl, rfl, by decide, by decide⟩
  intro b _ above (bad : b > 0xFFF)
  have : b < 0 + 5 := above
  omega

/-- Stores: up to the last byte, one past it, and with protected low memory the first byte above it and the last in
it. -/
theorem test_meets_Store_writable : noneOf (unwritable State.reset) (State.reset.setI 0xFFD#16).i.toNat 3 := by
  rintro b _ above (bad | ⟨protected', -⟩)
  · have : b < 0xFFD + 3 := above
    omega
  · cases protected'

theorem test_meets_Store_writable_protected :
    noneOf (unwritable (withCfg otherCfg)) ((withCfg otherCfg).setI 0x200#16).i.toNat ((15 : RegNum).val + 1) := by
  rintro b above below (bad | ⟨-, low⟩)
  · have : b < 0x200 + 16 := below
    omega
  · have : 0x200 ≤ b := above
    omega

theorem test_meets_Store_fault : firstOf (unwritable State.reset) (State.reset.setI 0xFFE#16).i.toNat 3 0x1000 :=
  ⟨by decide, by decide, .inl (by decide), fun b _ below => by
    rintro (bad | ⟨protected', -⟩)
    · omega
    · cases protected'⟩

theorem test_meets_Store_fault_protected :
    firstOf (unwritable (withCfg otherCfg)) ((withCfg otherCfg).setI 0x1FF#16).i.toNat ((0 : RegNum).val + 1) 0x1FF :=
  ⟨by decide, by decide, .inr ⟨rfl, by decide⟩, fun b above below _ => by
    have : 0x1FF ≤ b := above
    omega⟩

theorem test_meets_Load_readable :
    noneOf unreadable (State.reset.setI 0xFF0#16).i.toNat ((15 : RegNum).val + 1) := by
  intro b _ above (bad : b > 0xFFF)
  have : b < 0xFF0 + 16 := above
  omega

theorem test_meets_Load_fault :
    firstOf unreadable (State.reset.setI 0xFF1#16).i.toNat ((15 : RegNum).val + 1) 0x1000 :=
  ⟨by decide, by decide, by show 0x1000 > 0xFFF; decide, fun b _ below (bad : b > 0xFFF) => by omega⟩

theorem test_meets_StoredBytes : 1 ≤ (1 : RegNum).val ∧ (State.reset.setI 0xFFE#16).safe ∧
    ∃ t : State, exec (.ldStore 1) (State.reset.setI 0xFFE#16) = .next t ∧ t.safe :=
  ⟨by decide, rfl, _, rfl, rfl⟩

/-- Keys: a value above 0xF under `MASK`, 0xF and 0x10 under `FAULT`. -/
theorem test_meets_KeySkips_mask : (7 : RegNum).val = ((State.reset.setV 0 0x17#8).readV 0).toNat % 16 ∧
    (State.reset.setV 0 0x17#8).cfg.keyIndexPolicy = .mask := by decide

theorem test_meets_KeySkips_in_range :
    (15 : RegNum).val = (((withCfg otherCfg).setV 0 0x0F#8).readV 0).toNat % 16 ∧
    (((withCfg otherCfg).setV 0 0x0F#8).readV 0).toNat ≤ 0xF := by decide

theorem test_meets_KeySkips_fault : (0 : RegNum).val = (((withCfg otherCfg).setV 0 0x10#8).readV 0).toNat % 16 ∧
    ((withCfg otherCfg).setV 0 0x10#8).cfg.keyIndexPolicy = .fault ∧
    (((withCfg otherCfg).setV 0 0x10#8).readV 0).toNat > 0xF := by decide

theorem test_meets_KeyRead_pressed : (hostSetKey 9 true (hostSetKey 3 true State.reset)).key 3 = true ∧
    ∀ j : RegNum, j < 3 → (hostSetKey 9 true (hostSetKey 3 true State.reset)).key j = false := by decide

theorem test_meets_KeyRead_last_key : (hostSetKey 15 true State.reset).key 15 = true ∧
    ∀ j : RegNum, j < 15 → (hostSetKey 15 true State.reset).key j = false := by decide

theorem test_meets_KeyRead_none : ∀ k, State.reset.key k = false := by decide

theorem test_meets_KeyWaitCycle_pressed :
    (hostSetKey 0 true (State.reset.setStatus (.awaitingKey 3))).status = .awaitingKey 3 ∧
    (hostSetKey 0 true (State.reset.setStatus (.awaitingKey 3))).key 0 = true ∧
    ∀ j : RegNum, j < 0 → (hostSetKey 0 true (State.reset.setStatus (.awaitingKey 3))).key j = false := by decide

theorem test_meets_KeyWaitCycle_none : (State.reset.setStatus (.awaitingKey 3)).status = .awaitingKey 3 ∧
    ∀ k, (State.reset.setStatus (.awaitingKey 3)).key k = false := by decide

theorem test_meets_KeyWaitEquals :
    ((State.reset.withFetchWord 16 0xF30A).setStatus (.awaitingKey 3)).status = .awaitingKey 3 ∧
    ((State.reset.withFetchWord 16 0xF30A).setStatus (.awaitingKey 3)).fetch = .ok 0xF30A#16 ∧
    decode 0xF30A#16 = .instr (.ldVxK 3) := ⟨rfl, by rfl, by decide⟩

/-- The cycle: the last address a word can be fetched from, the two fetch faults, an illegal word. -/
theorem test_meets_StepExecutes : (ready .cls (State.reset.setPc 0xFFE#16)).status = .running ∧
    (ready .cls (State.reset.setPc 0xFFE#16)).pc.toNat ≤ 0xFFE ∧
    decode ((ready .cls (State.reset.setPc 0xFFE#16)).readByte 0xFFE ++
      (ready .cls (State.reset.setPc 0xFFE#16)).readByte 0xFFF) = .instr .cls ∧
    ∃ t, exec .cls (ready .cls (State.reset.setPc 0xFFE#16)) = .next t :=
  ⟨by decide, by decide, by decide, _, rfl⟩

theorem test_meets_Fetch : (State.reset.setPc 0xFFE#16).pc.toNat + 1 ≤ 0xFFF ∧
    (State.reset.setPc 0xFFF#16).pc.toNat = 0xFFF ∧ (State.reset.setPc 0x1000#16).pc.toNat > 0xFFF := by decide

theorem test_meets_FetchFault : (State.reset.setPc 0xFFF#16).status = .running ∧
    (State.reset.setPc 0xFFF#16).fetch = .error 0x1000 := ⟨rfl, by rfl⟩

theorem test_meets_DecodeFault : (State.reset.withFetchWord 16 0x5AB1).status = .running ∧
    (State.reset.withFetchWord 16 0x5AB1).fetch = .ok 0x5AB1#16 ∧
    decode 0x5AB1#16 = .unknownOpcode 0x5AB1#16 := ⟨rfl, by rfl, by decide⟩

theorem test_meets_Tick_enabled : (ready .cls State.reset).safe ∧ (ready .cls State.reset).input.tickEn = true :=
  ⟨rfl, rfl⟩

theorem test_meets_Tick_disabled : ({ State.reset with inputs := [⟨false, 0x00#8⟩] } : State).safe ∧
    ({ State.reset with inputs := [⟨false, 0x00#8⟩] } : State).input.tickEn = false := ⟨rfl, rfl⟩

theorem test_meets_HostCycle : (ready (.rnd 3 0xF0#8) State.reset).status = .running ∧
    (ready (.rnd 3 0xF0#8) State.reset).pc.toNat ≤ 0xFFE ∧
    decode ((ready (.rnd 3 0xF0#8) State.reset).readByte 0x200 ++
      (ready (.rnd 3 0xF0#8) State.reset).readByte 0x201) = .instr (.rnd 3 0xF0#8) := by decide

/-- Faults: an instruction's own, a fetch fault, a machine that has faulted, and one of each kind. -/
theorem test_meets_FaultsArePrecise : (ready .ret State.reset).status = .running ∧
    (ready .ret State.reset).pc.toNat ≤ 0xFFE ∧
    ∃ t r, step (ready .ret State.reset) = .next t ∧ t.status = .faulted r := ⟨rfl, by decide, _, _, rfl, rfl⟩

theorem test_meets_FaultsArePrecise_fetch : (State.reset.setPc 0xFFF#16).status = .running ∧
    (State.reset.setPc 0xFFF#16).pc.toNat > 0xFFE ∧
    ∃ t r, step (State.reset.setPc 0xFFF#16) = .next t ∧ t.status = .faulted r := ⟨rfl, by decide, _, _, rfl, rfl⟩

theorem test_meets_FaultedMachine :
    (State.reset.setStatus (.faulted (.unknownOpcode 0x200#16 0x5121#16))).status =
      .faulted (.unknownOpcode 0x200#16 0x5121#16) := rfl

theorem test_meets_EachInstruction_stack : (withSp 16).safe ∧ (withSp 0).safe ∧
    (∃ t r, exec (.call 0x200#12) (withSp 16) = .next t ∧ t.status = .faulted r) ∧
    (∃ t r, exec .ret (withSp 0) = .next t ∧ t.status = .faulted r) :=
  ⟨rfl, rfl, ⟨_, _, rfl, rfl⟩, ⟨_, _, rfl, rfl⟩⟩

theorem test_meets_EachInstruction_memory : (State.reset.setI 0xFFE#16).safe ∧
    ∃ t r, exec (.ldB 0) (State.reset.setI 0xFFE#16) = .next t ∧ t.status = .faulted r := ⟨rfl, _, _, rfl, rfl⟩

theorem test_meets_EachInstruction_store_protected : ((withCfg otherCfg).setI 0x1FF#16).safe ∧
    ∃ t : State, exec (.ldStore 0) ((withCfg otherCfg).setI 0x1FF#16) = .next t ∧
      t.status = .faulted (.memoryOutOfBounds 0x200#16 (some 0xF055#16) 0x1FF) := ⟨rfl, _, rfl, by decide⟩

theorem test_meets_EachInstruction_reads : (State.reset.setI 0xFFC#16).safe ∧
    (∃ t : State, exec (.drw 0 1 0x5#4) (State.reset.setI 0xFFC#16) = .next t ∧
      t.status = .faulted (.memoryOutOfBounds 0x200#16 (some 0xD015#16) 0x1000)) ∧
    ∃ t : State, exec (.ldLoad 4) (State.reset.setI 0xFFC#16) = .next t ∧
      t.status = .faulted (.memoryOutOfBounds 0x200#16 (some 0xF465#16) 0x1000) :=
  ⟨rfl, ⟨_, rfl, by decide⟩, _, rfl, by decide⟩

/-- Protected low memory guards writes alone (R48): reading at and below 0x1FF raises nothing. -/
theorem test_protected_low_memory_is_readable :
    (runWord 0xF165 ((withCfg otherCfg).setI 0x1FE#16)).map (·.status) = some .running ∧
    (runWord 0xD015 ((withCfg otherCfg).setI 0x1FB#16)).map (·.status) = some .running := by decide

theorem test_meets_EachInstruction_key : ((withCfg otherCfg).setV 0 0x10#8).safe ∧
    ∃ t r, exec (.skp 0) ((withCfg otherCfg).setV 0 0x10#8) = .next t ∧ t.status = .faulted r :=
  ⟨rfl, _, _, rfl, rfl⟩

theorem test_meets_CycleIsSafe : (ready .cls State.reset).status = .running ∧
    (∃ t : State, step (ready .cls State.reset) = .next t ∧ t.safe) ∧
    ∃ t : State, step (ready .ret State.reset) = .next t ∧ ¬t.safe :=
  ⟨rfl, ⟨_, rfl, rfl⟩, _, rfl, by intro h; cases h⟩

/-! The whole machine. -/

/-- A state that meets the invariant and is not the reset state: two stored bytes, an address on the stack. -/
def busy : State :=
  { State.reset with mem := [(0x002, 0x00#8), (0x20A, 0xF1#8)], pc := 0x10FE#16, sp := 1
                     stack := State.reset.stack.set 0 0x1000#16 }

theorem test_busy_invariant : busy.Inv :=
  ⟨by decide, by decide, by decide, fun _ => nofun, fun _ => nofun, fun _ => nofun⟩

theorem test_meets_StepKeepsTheInvariant : busy.Inv ∧ ∃ t, step busy = .next t :=
  ⟨test_busy_invariant, _, rfl⟩

theorem test_meets_HostOperationsKeepTheInvariant :
    busy.Inv ∧ ∃ t, hostApply (.load 0x200 [0x12#8, 0x00#8]) busy = .next t :=
  ⟨test_busy_invariant, _, rfl⟩

theorem test_meets_OnlyTheNamedInstructions : ∃ t, exec (.addReg 0 1) State.reset = .next t := ⟨_, rfl⟩

theorem test_meets_OnlyTheNamedInstructions_status :
    (∃ t : State, exec (.ldVxK 3) State.reset = .next t ∧ t.status = .awaitingKey 3) ∧
    ∃ t, exec .ret { State.reset with tonePulse := true } = .next t ∧
      t = faultedWith { State.reset with tonePulse := true } (.stackUnderflow 0x200#16 0x00EE#16) :=
  ⟨⟨_, rfl, rfl⟩, _, rfl, rfl⟩

theorem test_meets_StepNeverWrites : ∃ t, step State.reset = .next t := ⟨_, rfl⟩

/-- Load: a program that just fits at 0x200, and one byte more (L1.6). -/
theorem test_meets_Load_fits : 0x200 + (List.replicate 3584 0x12#8).length ≤ 4096 := by
  rw [List.length_replicate]

theorem test_meets_Load_too_large : 0x200 + (List.replicate 3585 0x12#8).length > 4096 := by
  rw [List.length_replicate]; decide

theorem test_load_too_large_EX6 : hostLoad 0xFFF [0x01#8, 0x02#8] State.reset =
    (.programTooLarge 0xFFF 2, State.reset) := by rfl

end Sys2Proof.Machine.Tests
end

section
/-! SUPPORT. The registers and `PC` that reset gives (10_state.md R16, R24), for a machine with any parameters; the
host's reset keeps these values and differs from `State.resetOf` in the model's own fields alone. -/

namespace Sys2Proof.Machine

@[simp] theorem resetOf_readV (cfg : Config) (x : RegNum) : (State.resetOf cfg).readV x = 0x00#8 := by
  simp only [State.readV, State.resetOf, Vector.getElem_replicate]

@[simp] theorem resetOf_pc (cfg : Config) : (State.resetOf cfg).pc = 0x0200#16 := rfl

@[simp] theorem hostReset_readV (s : State) (x : RegNum) : (hostReset s).readV x = 0x00#8 :=
  resetOf_readV s.cfg x

@[simp] theorem hostReset_pc (s : State) : (hostReset s).pc = 0x0200#16 := resetOf_pc s.cfg

/-- Settles O54: the first reset is `resetOf` at the default parameters, a later one at those of the state it leaves. -/
theorem resetZeroesRegistersAndSetsPc : Obligations.ResetZeroesRegistersAndSetsPc :=
  ⟨resetOf_readV defaultConfig, resetOf_pc defaultConfig, fun s => ⟨hostReset_readV s, hostReset_pc s⟩⟩

end Sys2Proof.Machine
end

section
/-! SUPPORT. The jump and the skips of 41_control_flow.md that compare values: each writes the program counter alone, so
one frame lemma about `State.setPc` serves them all. -/

namespace Sys2Proof.Machine

/-! The frame of an instruction does not speak of the program counter. -/

theorem Frame.refl (w : Writes) (s : State) : Frame w s s where
  regs _ _ := rfl
  index _ := rfl
  stack _ := ⟨rfl, rfl⟩
  delay _ := rfl
  sound _ := rfl
  display _ := ⟨rfl, rfl⟩
  status _ := rfl
  memory _ _ := rfl
  keys := rfl
  tonePulse := rfl
  cfg := rfl
  inputs := rfl
  draws := rfl

theorem Frame.setPc {w : Writes} {s t : State} (kept : Frame w s t) (target : Word) : Frame w s (t.setPc target) :=
  { kept with }

theorem Frame.skipIf {w : Writes} {s t : State} (kept : Frame w s t) (c : Bool) : Frame w s (t.skipIf c) :=
  kept.setPc _

/-! What each instruction does, and where its skip goes. -/

@[simp] theorem exec_jp (nnn : Addr12) (s : State) : exec (.jp nnn) s = .next (s.setPc (nnn.setWidth 16)) := rfl

@[simp] theorem exec_seImm (x : RegNum) (kk : Byte) (s : State) :
    exec (.seImm x kk) s = .next (s.skipIf (s.readV x == kk)) := rfl

@[simp] theorem exec_sneImm (x : RegNum) (kk : Byte) (s : State) :
    exec (.sneImm x kk) s = .next (s.skipIf (s.readV x != kk)) := rfl

@[simp] theorem exec_seReg (x y : RegNum) (s : State) :
    exec (.seReg x y) s = .next (s.skipIf (s.readV x == s.readV y)) := rfl

@[simp] theorem exec_sneReg (x y : RegNum) (s : State) :
    exec (.sneReg x y) s = .next (s.skipIf (s.readV x != s.readV y)) := rfl

theorem skipIf_beq_pc (s : State) (a b : Byte) :
    (s.skipIf (a == b)).pc = if a = b then s.pc + 4#16 else s.pc + 2#16 := by
  simp only [skipIf_pc, beq_iff_eq]

theorem skipIf_bne_pc (s : State) (a b : Byte) :
    (s.skipIf (a != b)).pc = if a = b then s.pc + 2#16 else s.pc + 4#16 := by
  simp only [skipIf_pc, bne_iff_ne, ne_eq, ite_not]

/-- Settles O6: the widened address keeps its value, and only the program counter is written. -/
theorem jumpGoesToItsAddress : Obligations.JumpGoesToItsAddress := fun nnn s =>
  ⟨_, exec_jp nnn s, BitVec.toNat_setWidth_of_le (by decide), (Frame.refl _ s).setPc _⟩

/-- Settles O11: `SE` skips on the comparison itself, `SNE` on its negation. -/
theorem skipsOnImmediate : Obligations.SkipsOnImmediate := fun x kk s =>
  ⟨⟨_, exec_seImm x kk s, skipIf_beq_pc .., (Frame.refl _ s).skipIf _⟩,
    ⟨_, exec_sneImm x kk s, skipIf_bne_pc .., (Frame.refl _ s).skipIf _⟩⟩

/-- Settles O12: the two skips of O11 with the second value read from a register, which may be the first. -/
theorem skipsOnRegisters : Obligations.SkipsOnRegisters := fun x y s =>
  ⟨⟨_, exec_seReg x y s, skipIf_beq_pc .., (Frame.refl _ s).skipIf _⟩,
    ⟨_, exec_sneReg x y s, skipIf_bne_pc .., (Frame.refl _ s).skipIf _⟩⟩

end Sys2Proof.Machine
end

section
/-! SUPPORT. The loads, the addition and the subtractions of 42_alu.md: each ends by `State.finishPlain` or by
`State.finishFlagged`, so what a register holds after these two, and their frames, serve every ALU instruction. The
arithmetic is about two bytes alone. -/

namespace Sys2Proof.Machine

/-! A result without a flag. -/

/-- A register that the frame names may be written. -/
theorem Frame.setV {w : Writes} {s t : State} (kept : Frame w s t) {x : RegNum} (named : x ∈ w.regs) (b : Byte) :
    Frame w s (t.setV x b) :=
  { kept with
    regs := fun r free => by
      have other : r ≠ x := fun same => free (same ▸ named)
      rw [readV_setV, if_neg other, kept.regs r free] }

@[simp] theorem finishPlain_pc (s : State) (x : RegNum) (b : Byte) : (s.finishPlain x b).pc = s.pc + 2#16 := rfl

@[simp] theorem readV_finishPlain_same (s : State) (x : RegNum) (b : Byte) : (s.finishPlain x b).readV x = b :=
  readV_setV_same s x b

theorem frame_finishPlain (s : State) (x : RegNum) (b : Byte) : Frame { regs := [x] } s (s.finishPlain x b) :=
  ((Frame.refl _ s).setV (List.mem_singleton_self x) b).setPc _

/-! A result, then a flag: the flag is written last, so it stands in `VF` for every destination, `VF` too. -/

theorem Frame.setFlag {w : Writes} {s t : State} (kept : Frame w s t) (named : 15 ∈ w.regs) (f : Bool) :
    Frame w s (t.setFlag f) :=
  kept.setV named (flagByte f)

@[simp] theorem finishFlagged_pc (s : State) (x : RegNum) (b : Byte) (f : Bool) :
    (s.finishFlagged x b f).pc = s.pc + 2#16 := rfl

@[simp] theorem readV_finishFlagged_VF (s : State) (x : RegNum) (b : Byte) (f : Bool) :
    (s.finishFlagged x b f).readV 15 = flagByte f :=
  readV_setFlag_VF (s.setV x b) f

theorem readV_finishFlagged_same (s : State) {x : RegNum} (b : Byte) (f : Bool) (notVF : x ≠ 15) :
    (s.finishFlagged x b f).readV x = b := by
  rw [State.finishFlagged, advance_readV, readV_setFlag, if_neg notVF, readV_setV_same]

theorem frame_finishFlagged (s : State) (x : RegNum) (b : Byte) (f : Bool) :
    Frame { regs := [x, 15] } s (s.finishFlagged x b f) :=
  (((Frame.refl _ s).setV (by simp) b).setFlag (by simp) f).setPc _

/-! The arithmetic: integer values of the flags and of the difference (R89). -/

@[simp] theorem toNat_flagByte (f : Bool) : (flagByte f).toNat = if f then 1 else 0 := by
  cases f <;> rfl

@[simp] theorem carryOf_iff (a b : Byte) : carryOf a b = true ↔ a.toNat + b.toNat > 255 := decide_eq_true_iff

/-- The exact difference is not negative just when the minuend is at least the subtrahend. -/
@[simp] theorem notBorrowOf_iff (a b : Byte) : notBorrowOf a b = true ↔ a.toNat ≥ b.toNat := by
  rw [notBorrowOf, decide_eq_true_iff]
  omega

/-- A byte difference is the integer difference modulo 256, a negative one included. -/
theorem toNat_sub_eq_emod (a b : Byte) : ((a - b).toNat : Int) = ((a.toNat : Int) - b.toNat) % 256 := by
  have := b.isLt
  rw [BitVec.toNat_sub]
  omega

/-! What each instruction does. -/

@[simp] theorem exec_ldImm (x : RegNum) (kk : Byte) (s : State) : exec (.ldImm x kk) s = .next (s.finishPlain x kk) :=
  rfl

@[simp] theorem exec_ldReg (x y : RegNum) (s : State) :
    exec (.ldReg x y) s = .next (s.finishPlain x (s.readV y)) := rfl

@[simp] theorem exec_addReg (x y : RegNum) (s : State) : exec (.addReg x y) s =
    .next (s.finishFlagged x (s.readV x + s.readV y) (carryOf (s.readV x) (s.readV y))) := rfl

@[simp] theorem exec_subReg (x y : RegNum) (s : State) : exec (.subReg x y) s =
    .next (s.finishFlagged x (s.readV x - s.readV y) (notBorrowOf (s.readV x) (s.readV y))) := rfl

@[simp] theorem exec_subn (x y : RegNum) (s : State) : exec (.subn x y) s =
    .next (s.finishFlagged x (s.readV y - s.readV x) (notBorrowOf (s.readV y) (s.readV x))) := rfl

/-- What a flagged difference leaves, whichever register is the minuend: `SUB` and `SUBN` differ in that alone. -/
theorem finishFlagged_difference (s : State) (x : RegNum) (a b : Byte) {t : State}
    (left : t = s.finishFlagged x (a - b) (notBorrowOf a b)) :
    (x ≠ 15 → ((t.readV x).toNat : Int) = ((a.toNat : Int) - b.toNat) % 256) ∧
    (t.readV 15).toNat = (if a.toNat ≥ b.toNat then 1 else 0) ∧
    t.pc = s.pc + 2#16 ∧ Frame { regs := [x, 15] } s t := by
  subst left
  refine ⟨fun notVF => ?_, ?_, finishFlagged_pc .., frame_finishFlagged ..⟩
  · rw [readV_finishFlagged_same s _ _ notVF, toNat_sub_eq_emod]
  · simp only [readV_finishFlagged_VF, toNat_flagByte, notBorrowOf_iff]

/-- Settles O16: the sum wraps at 256 as a byte does, and the carry is written after it. -/
theorem addRegistersWritesSumThenCarry : Obligations.AddRegistersWritesSumThenCarry := by
  intro x y s
  refine ⟨_, exec_addReg x y s, fun notVF => ?_, ?_, finishFlagged_pc .., frame_finishFlagged ..⟩
  · rw [readV_finishFlagged_same s _ _ notVF, BitVec.toNat_add]
  · simp only [readV_finishFlagged_VF, toNat_flagByte, carryOf_iff]

/-- Settles O17: `SUB` takes `V[x]` as the minuend, `SUBN` takes `V[y]`. -/
theorem subtractionsWriteDifferenceThenNotBorrow : Obligations.SubtractionsWriteDifferenceThenNotBorrow := fun x y s =>
  ⟨⟨_, exec_subReg x y s, finishFlagged_difference s x (s.readV x) (s.readV y) rfl⟩,
    ⟨_, exec_subn x y s, finishFlagged_difference s x (s.readV y) (s.readV x) rfl⟩⟩

/-- Settles O13: both loads end plainly, with the immediate or with the old value of `V[y]`. -/
theorem registerLoadsWriteTheDestination : Obligations.RegisterLoadsWriteTheDestination := fun x y kk s =>
  ⟨⟨_, exec_ldImm x kk s, readV_finishPlain_same .., finishPlain_pc .., frame_finishPlain ..⟩,
    ⟨_, exec_ldReg x y s, readV_finishPlain_same .., finishPlain_pc .., frame_finishPlain ..⟩⟩

end Sys2Proof.Machine
end

section
/-! SUPPORT. Clearing the display (43_display.md R106): the instruction writes the display and the program counter, and
the blank framebuffer has every pixel off. -/

namespace Sys2Proof.Machine

/-- A display that the frame names may be written. -/
theorem Frame.setDisplay {w : Writes} {s t : State} (kept : Frame w s t) (named : w.display = true)
    (fb : Framebuffer) : Frame w s (t.setDisplay fb) :=
  { kept with display := fun unnamed => absurd named (Bool.eq_false_iff.mp unnamed) }

@[simp] theorem exec_cls (s : State) : exec .cls s = .next (s.setDisplay Framebuffer.blank).advance := rfl

/-- Settles O25: `redraw` is set with the pixels whatever they were, and the advance keeps both. -/
theorem clearTurnsEveryPixelOff : Obligations.ClearTurnsEveryPixelOff := by
  intro s
  refine ⟨_, exec_cls s, fun row col => ?_, ?_, ?_, ((Frame.refl _ s).setDisplay rfl _).setPc _⟩
  · rw [advance_fb, setDisplay_fb, pixel_blank]
  · rw [advance_redraw, setDisplay_redraw]
  · rw [advance_pc, setDisplay_pc]

end Sys2Proof.Machine
end

section
/-! SUPPORT. The timer transfers of 45_timers_keys.md (R113 to R115): the read of `DT` ends plainly like a register load,
and the two writes each change one timer and the program counter. -/

namespace Sys2Proof.Machine

/-- A delay timer that the frame names may be written. -/
theorem Frame.setDt {w : Writes} {s t : State} (kept : Frame w s t) (named : w.delay = true) (b : Byte) :
    Frame w s (t.setDt b) :=
  { kept with delay := fun unnamed => absurd named (Bool.eq_false_iff.mp unnamed) }

/-- A sound timer that the frame names may be written. -/
theorem Frame.setSt {w : Writes} {s t : State} (kept : Frame w s t) (named : w.sound = true) (b : Byte) :
    Frame w s (t.setSt b) :=
  { kept with sound := fun unnamed => absurd named (Bool.eq_false_iff.mp unnamed) }

@[simp] theorem exec_ldVxDT (x : RegNum) (s : State) : exec (.ldVxDT x) s = .next (s.finishPlain x s.dt) := rfl

@[simp] theorem exec_ldDTVx (x : RegNum) (s : State) : exec (.ldDTVx x) s = .next (s.setDt (s.readV x)).advance := rfl

@[simp] theorem exec_ldSTVx (x : RegNum) (s : State) : exec (.ldSTVx x) s = .next (s.setSt (s.readV x)).advance := rfl

/-- Settles O30: the value moved is read from the state before the instruction, and the advance keeps what was written. -/
theorem timerTransfersMoveTheValue : Obligations.TimerTransfersMoveTheValue := by
  intro x s
  refine ⟨⟨_, exec_ldVxDT x s, readV_finishPlain_same .., finishPlain_pc .., frame_finishPlain ..⟩,
    ⟨_, exec_ldDTVx x s, ?_, ?_, ((Frame.refl _ s).setDt rfl _).setPc _⟩,
    ⟨_, exec_ldSTVx x s, ?_, ?_, ((Frame.refl _ s).setSt rfl _).setPc _⟩⟩
  · rw [advance_dt, setDt_dt]
  · rw [advance_pc, setDt_pc]
  · rw [advance_st, setSt_st]
  · rw [advance_pc, setSt_pc]

end Sys2Proof.Machine
end

section
/-! SUPPORT. The index load and the system call of 46_index_system.md (R121, R124): the first writes the index register
and the program counter, the second the program counter alone. -/

namespace Sys2Proof.Machine

/-- An index register that the frame names may be written. -/
theorem Frame.setI {w : Writes} {s t : State} (kept : Frame w s t) (named : w.index = true) (value : Word) :
    Frame w s (t.setI value) :=
  { kept with index := fun unnamed => absurd named (Bool.eq_false_iff.mp unnamed) }

@[simp] theorem exec_ldI (nnn : Addr12) (s : State) :
    exec (.ldI nnn) s = .next (s.setI (nnn.setWidth 16)).advance := rfl

@[simp] theorem exec_sys (nnn : Addr12) (s : State) : exec (.sys nnn) s = .next s.advance := rfl

/-- Settles O35: widening the 12-bit address keeps its value, and the advance keeps the index register. -/
theorem loadIndexZeroExtends : Obligations.LoadIndexZeroExtends := by
  intro nnn s
  refine ⟨_, exec_ldI nnn s, ?_, ?_, ((Frame.refl _ s).setI rfl _).setPc _⟩
  · rw [advance_i, setI_i, BitVec.toNat_setWidth_of_le (by decide)]
  · rw [advance_pc, setI_pc]

/-- Settles O37: the instruction is the default advance, whatever its address. -/
theorem systemCallIsANoOp : Obligations.SystemCallIsANoOp := fun nnn s =>
  ⟨_, exec_sys nnn s, advance_pc s, (Frame.refl _ s).setPc _⟩

end Sys2Proof.Machine
end

section
/-! SUPPORT. The decoder and the encoder undo each other (30_encoding.md R60 to R64): the formats whose fields are read
back give the word, and each family of the decoder is dispatched on the fields its format fixes. -/

namespace Sys2Proof

/-! A word from its own fields, where some of them are known. -/

theorem formatA_eq_word {w : Word} {op : Nibble} (family : opField w = op) : formatA op (nnnField w) = w := by
  rw [← family, formatA_of_fields]

theorem formatXK_eq_word {w : Word} {op : Nibble} (family : opField w = op) :
    formatXK op (xField w) (kkField w) = w := by
  rw [← family, formatXK_of_fields]

theorem formatX_eq_word {w : Word} {op : Nibble} {sub : Byte} (family : opField w = op) (second : kkField w = sub) :
    formatX op (xField w) sub = w := by
  rw [← family, ← second, formatX_of_fields]

theorem formatXY_eq_word {w : Word} {op n : Nibble} (family : opField w = op) (second : nField w = n) :
    formatXY op (xField w) (yField w) n = w := by
  rw [← family, ← second, formatXY_of_fields]

/-- A word of family 0 is its address field: `CLS` and `RET` are the two words that R62 takes out. -/
theorem formatA_zero_eq_iff (nnn field : Addr12) : formatA 0x0#4 nnn = formatA 0x0#4 field ↔ nnn = field :=
  ⟨fun same => by rw [← nnnField_formatA 0x0#4 nnn, same, nnnField_formatA], fun same => by rw [same]⟩

/-- The word of a well-formed `SYS` is neither that of `CLS` nor that of `RET`. -/
theorem decodeFamily0_formatA {nnn : Addr12} (wf : (Instr.sys nnn).wellFormed = true) :
    decodeFamily0 (formatA 0x0#4 nnn) = .instr (.sys nnn) := by
  simp only [Instr.wellFormed, Bool.and_eq_true, bne_iff_ne] at wf
  have notCls : formatA 0x0#4 nnn ≠ 0x00E0#16 := fun same => wf.1 ((formatA_zero_eq_iff nnn 0x0E0#12).mp same)
  have notRet : formatA 0x0#4 nnn ≠ 0x00EE#16 := fun same => wf.2 ((formatA_zero_eq_iff nnn 0x0EE#12).mp same)
  rw [decodeFamily0, if_neg notCls, if_neg notRet, nnnField_formatA]

/-- Settles O1: each format gives back the fields it was made of, so the dispatch takes the arm of the instruction. -/
theorem decodeOfEncodeIsTheInstruction : Obligations.DecodeOfEncodeIsTheInstruction := by
  intro i wf
  cases i
  case sys nnn => simp only [encode, decode, opField_formatA, decodeFamily0_formatA wf]
  case cls | ret => rfl
  all_goals simp [encode, decode, decodeFamily8, decodeFamilyE, decodeFamilyF]

/-! What each family answers is encoded by the word it was given. -/

section
variable {w : Word} {i : Instr}

theorem encode_of_decodeFamily0 (family : opField w = 0x0#4) (h : decodeFamily0 w = .instr i) :
    i.wellFormed = true ∧ encode i = w := by
  unfold decodeFamily0 at h
  split at h
  case isTrue isCls => cases h; exact ⟨rfl, isCls.symm⟩
  case isFalse notCls =>
    split at h
    case isTrue isRet => cases h; exact ⟨rfl, isRet.symm⟩
    case isFalse notRet =>
      cases h
      have whole : formatA 0x0#4 (nnnField w) = w := formatA_eq_word family
      refine ⟨?_, whole⟩
      simp only [Instr.wellFormed, Bool.and_eq_true, bne_iff_ne]
      exact ⟨fun same => notCls (by rw [← whole, same]; rfl), fun same => notRet (by rw [← whole, same]; rfl)⟩

theorem encode_of_decodeFamily8 (family : opField w = 0x8#4) (h : decodeFamily8 w = .instr i) :
    i.wellFormed = true ∧ encode i = w := by
  unfold decodeFamily8 at h
  split at h <;> cases h <;> exact ⟨rfl, formatXY_eq_word family ‹_›⟩

theorem encode_of_decodeFamilyE (family : opField w = 0xE#4) (h : decodeFamilyE w = .instr i) :
    i.wellFormed = true ∧ encode i = w := by
  unfold decodeFamilyE at h
  split at h <;> cases h <;> exact ⟨rfl, formatX_eq_word family ‹_›⟩

theorem encode_of_decodeFamilyF (family : opField w = 0xF#4) (h : decodeFamilyF w = .instr i) :
    i.wellFormed = true ∧ encode i = w := by
  unfold decodeFamilyF at h
  split at h <;> cases h <;> exact ⟨rfl, formatX_eq_word family ‹_›⟩

end

/-- Settles O2: each arm's instruction has the format of the word, with the fields the dispatch has fixed. -/
theorem encodeOfDecodeIsTheWord : Obligations.EncodeOfDecodeIsTheWord := by
  intro w i h
  unfold decode at h
  split at h
  case h_1 family => exact encode_of_decodeFamily0 family h
  case h_2 family | h_3 family | h_11 family | h_12 family => cases h; exact ⟨rfl, formatA_eq_word family⟩
  case h_4 family | h_5 family | h_7 family | h_8 family | h_13 family =>
    cases h; exact ⟨rfl, formatXK_eq_word family⟩
  case h_6 family | h_10 family =>
    split at h
    · cases h; exact ⟨rfl, formatXY_eq_word family ‹_›⟩
    · cases h
  case h_9 family => exact encode_of_decodeFamily8 family h
  case h_14 family => cases h; exact ⟨rfl, formatXY_eq_word family rfl⟩
  case h_15 family => exact encode_of_decodeFamilyE family h
  case h_16 => exact encode_of_decodeFamilyF (by generalize opField w = op at *; decide +revert) h

/-! The words no family takes. -/

theorem nField_eq_zero_iff (w : Word) : nField w = 0x0#4 ↔ w.toNat % 16 = 0 := by
  rw [← nField_toNat, ← BitVec.toNat_inj]
  rfl

theorem decodeFamily0_ne_unknown (w u : Word) : decodeFamily0 w ≠ .unknownOpcode u := by
  unfold decodeFamily0
  split
  · exact nofun
  · split <;> exact nofun

theorem decodeFamily8_unknown_iff (w : Word) : decodeFamily8 w = .unknownOpcode w ↔
    w.toNat % 16 ∈ [0x8, 0x9, 0xA, 0xB, 0xC, 0xD, 0xF] := by
  rw [← nField_toNat]
  unfold decodeFamily8
  split
  case h_10 => simp only [true_iff]; generalize nField w = n at *; decide +revert
  all_goals simp [*]

theorem decodeFamilyE_unknown_iff (w : Word) : decodeFamilyE w = .unknownOpcode w ↔
    w.toNat % 256 ∉ [0x9E, 0xA1] := by
  rw [← kkField_toNat]
  unfold decodeFamilyE
  split
  case h_3 => simp only [true_iff]; generalize kkField w = kk at *; decide +revert
  all_goals simp [*]

theorem decodeFamilyF_unknown_iff (w : Word) : decodeFamilyF w = .unknownOpcode w ↔
    w.toNat % 256 ∉ [0x07, 0x0A, 0x15, 0x18, 0x1E, 0x29, 0x33, 0x55, 0x65] := by
  rw [← kkField_toNat]
  unfold decodeFamilyF
  split
  case h_10 => simp only [true_iff]; generalize kkField w = kk at *; decide +revert
  all_goals simp [*]

/-- Settles O4: by family, with the second dispatch of the five families that have illegal words. -/
theorem illegalWordsAreExactlyTheListed : Obligations.IllegalWordsAreExactlyTheListed := by
  intro w
  rw [← opField_toNat]
  unfold decode
  split
  case h_16 =>
    have family : opField w = 0xF#4 := by generalize opField w = op at *; decide +revert
    simp [family, decodeFamilyF_unknown_iff]
  case h_1 family => simp [family, decodeFamily0_ne_unknown]
  case h_6 family | h_10 family =>
    split
    case isTrue plain => simp [family, (nField_eq_zero_iff w).mp plain]
    case isFalse other => simp [family, mt (nField_eq_zero_iff w).mpr other]
  case h_9 family => simp [family, decodeFamily8_unknown_iff]
  case h_15 family => simp [family, decodeFamilyE_unknown_iff]
  all_goals simp [*]

/-- Settles O5: one word per family, computed by the decoder. -/
theorem sampleWordsOfEachFamilyDecode : Obligations.SampleWordsOfEachFamilyDecode :=
  ⟨rfl, rfl, rfl, rfl, rfl, rfl, rfl, rfl, rfl⟩

end Sys2Proof
end

section
/-! SUPPORT. The opcode map of 30_encoding.md R60, row by row: a word that a row selects is the word of the row's
instruction, and the word of every well-formed instruction is selected by a row. -/

namespace Sys2Proof

/-! What each mask of the map leaves of a format: the digits that tell the rows apart. -/

theorem nibble_and_F (a : Nibble) : a &&& 0xF#4 = a := BitVec.and_allOnes

theorem formatA_and_F000 (op : Nibble) (nnn : Addr12) : formatA op nnn &&& 0xF000#16 = formatA op 0 := by
  have mask : 0xF000#16 = formatA 0xF#4 0 := rfl
  rw [mask, formatA, formatA, BitVec.and_append, nibble_and_F]
  exact congrArg (op ++ ·) BitVec.and_zero

theorem formatXK_and_F000 (op : Nibble) (x : RegNum) (kk : Byte) : formatXK op x kk &&& 0xF000#16 = formatA op 0 := by
  rw [← formatA_of_fields (formatXK op x kk), formatA_and_F000, opField_formatXK]

theorem formatXY_and_F000 (op n : Nibble) (x y : RegNum) : formatXY op x y n &&& 0xF000#16 = formatA op 0 := by
  rw [← formatA_of_fields (formatXY op x y n), formatA_and_F000, opField_formatXY]

theorem wordOfBytes_and (a b c d : Byte) :
    wordOfBytes a b &&& wordOfBytes c d = wordOfBytes (a &&& c) (b &&& d) := BitVec.and_append

theorem digits_and (a b c d : Nibble) : (a ++ b : Byte) &&& (c ++ d : Byte) = ((a &&& c) ++ (b &&& d) : Byte) :=
  BitVec.and_append

theorem digits_and_F0 (a b : Nibble) : (a ++ b : Byte) &&& 0xF0#8 = (a ++ regNibble 0 : Byte) := by
  refine (digits_and a b 0xF#4 0x0#4).trans ?_
  rw [nibble_and_F, BitVec.and_zero]
  rfl

theorem digits_and_0F (a b : Nibble) : (a ++ b : Byte) &&& 0x0F#8 = (regNibble 0 ++ b : Byte) := by
  refine (digits_and a b 0x0#4 0xF#4).trans ?_
  rw [nibble_and_F, BitVec.and_zero]
  rfl

theorem formatXY_and_F00F (op n : Nibble) (x y : RegNum) : formatXY op x y n &&& 0xF00F#16 = formatXY op 0 0 n :=
  (wordOfBytes_and _ _ 0xF0#8 0x0F#8).trans (congrArg₂ wordOfBytes (digits_and_F0 ..) (digits_and_0F ..))

theorem formatX_and_F0FF (op : Nibble) (x : RegNum) (sub : Byte) : formatX op x sub &&& 0xF0FF#16 = formatX op 0 sub :=
  (wordOfBytes_and _ _ 0xF0#8 (BitVec.allOnes 8)).trans
    (congrArg₂ wordOfBytes (digits_and_F0 ..) BitVec.and_allOnes)

/-! The map's fields, by arithmetic on the word's number, are the decoder's. -/

theorem mapX_toNat (w : Word) : mapX w.toNat = xField w := Fin.ext (xField_val w).symm

theorem mapY_toNat (w : Word) : mapY w.toNat = yField w := Fin.ext (yField_val w).symm

theorem mapKK_toNat (w : Word) : mapKK w.toNat = kkField w :=
  BitVec.eq_of_toNat_eq ((BitVec.toNat_ofNat ..).trans (kkField_toNat w).symm)

theorem mapNNN_toNat (w : Word) : mapNNN w.toNat = nnnField w :=
  BitVec.eq_of_toNat_eq ((BitVec.toNat_ofNat ..).trans (nnnField_toNat w).symm)

theorem mapN_toNat (w : Word) : BitVec.ofNat 4 w.toNat = nField w :=
  BitVec.eq_of_toNat_eq ((BitVec.toNat_ofNat ..).trans (nField_toNat w).symm)

/-! A selected word is the format of the map's fields. -/

section
variable {w : Word} {op n : Nibble} {sub : Byte}

theorem opField_of_F000 (h : w &&& 0xF000#16 = formatA op 0) : opField w = op := by
  have kept := formatA_and_F000 (opField w) (nnnField w)
  rw [formatA_of_fields, h] at kept
  simpa using congrArg opField kept.symm

theorem fields_of_F00F (h : w &&& 0xF00F#16 = formatXY op 0 0 n) : opField w = op ∧ nField w = n := by
  have kept := formatXY_and_F00F (opField w) (nField w) (xField w) (yField w)
  rw [formatXY_of_fields, h] at kept
  exact ⟨by simpa using congrArg opField kept.symm, by simpa using congrArg nField kept.symm⟩

theorem fields_of_F0FF (h : w &&& 0xF0FF#16 = formatX op 0 sub) : opField w = op ∧ kkField w = sub := by
  have kept := formatX_and_F0FF (opField w) (xField w) (kkField w)
  rw [formatX_of_fields, h] at kept
  exact ⟨by simpa using congrArg opField kept.symm, by simpa using congrArg kkField kept.symm⟩

theorem formatA_of_F000 (h : w &&& 0xF000#16 = formatA op 0) : formatA op (mapNNN w.toNat) = w := by
  rw [mapNNN_toNat, formatA_eq_word (opField_of_F000 h)]

theorem formatXK_of_F000 (h : w &&& 0xF000#16 = formatA op 0) :
    formatXK op (mapX w.toNat) (mapKK w.toNat) = w := by
  rw [mapX_toNat, mapKK_toNat, formatXK_eq_word (opField_of_F000 h)]

theorem formatXYN_of_F000 (h : w &&& 0xF000#16 = formatA op 0) :
    formatXY op (mapX w.toNat) (mapY w.toNat) (BitVec.ofNat 4 w.toNat) = w := by
  rw [mapX_toNat, mapY_toNat, mapN_toNat, formatXY_eq_word (opField_of_F000 h) rfl]

theorem formatXY_of_F00F (h : w &&& 0xF00F#16 = formatXY op 0 0 n) :
    formatXY op (mapX w.toNat) (mapY w.toNat) n = w := by
  rw [mapX_toNat, mapY_toNat, formatXY_eq_word (fields_of_F00F h).1 (fields_of_F00F h).2]

theorem formatX_of_F0FF (h : w &&& 0xF0FF#16 = formatX op 0 sub) : formatX op (mapX w.toNat) sub = w := by
  rw [mapX_toNat, formatX_eq_word (fields_of_F0FF h).1 (fields_of_F0FF h).2]

theorem eq_of_FFFF {p : Word} (h : w &&& 0xFFFF#16 = p) : p = w := h.symm.trans BitVec.and_allOnes

/-- The exclusion of the `SYS` row is the well-formedness of `SYS` (R60). -/
theorem sys_wellFormed_of_selected (h : w &&& 0xF000#16 = formatA 0x0#4 0) (free : w ∉ [0x00E0#16, 0x00EE#16]) :
    (Instr.sys (mapNNN w.toNat)).wellFormed = true := by
  have word := formatA_of_F000 h
  simp only [Instr.wellFormed, Bool.and_eq_true, bne_iff_ne]
  exact ⟨fun same => free (by rw [← word, same]; decide), fun same => free (by rw [← word, same]; decide)⟩

end

/-- A row's instruction is well-formed, and its word is the one selected. -/
def OpcodeRow.Sound (r : OpcodeRow) : Prop :=
  ∀ w : Word, r.selects w → (r.build w.toNat).wellFormed = true ∧ encode (r.build w.toNat) = w

theorem opcodeMapLow_sound : ∀ r ∈ opcodeMapLow, r.Sound := by
  simp only [opcodeMapLow, List.forall_mem_cons]
  refine ⟨fun w h => ⟨sys_wellFormed_of_selected h.1 h.2, formatA_of_F000 (op := 0x0#4) h.1⟩,
    fun w h => ⟨rfl, eq_of_FFFF h.1⟩, fun w h => ⟨rfl, eq_of_FFFF h.1⟩,
    fun w h => ⟨rfl, formatA_of_F000 (op := 0x1#4) h.1⟩, fun w h => ⟨rfl, formatA_of_F000 (op := 0x2#4) h.1⟩,
    fun w h => ⟨rfl, formatXK_of_F000 (op := 0x3#4) h.1⟩, fun w h => ⟨rfl, formatXK_of_F000 (op := 0x4#4) h.1⟩,
    fun w h => ⟨rfl, formatXY_of_F00F (op := 0x5#4) h.1⟩, fun w h => ⟨rfl, formatXK_of_F000 (op := 0x6#4) h.1⟩,
    fun w h => ⟨rfl, formatXK_of_F000 (op := 0x7#4) h.1⟩, nofun⟩

theorem opcodeMapMid_sound : ∀ r ∈ opcodeMapMid, r.Sound := by
  have family8 (n : Nibble) (w : Word) (h : w &&& 0xF00F#16 = formatXY 0x8#4 0 0 n) := formatXY_of_F00F h
  simp only [opcodeMapMid, List.forall_mem_cons]
  exact ⟨fun w h => ⟨rfl, family8 0x0 w h.1⟩, fun w h => ⟨rfl, family8 0x1 w h.1⟩, fun w h => ⟨rfl, family8 0x2 w h.1⟩,
    fun w h => ⟨rfl, family8 0x3 w h.1⟩, fun w h => ⟨rfl, family8 0x4 w h.1⟩, fun w h => ⟨rfl, family8 0x5 w h.1⟩,
    fun w h => ⟨rfl, family8 0x6 w h.1⟩, fun w h => ⟨rfl, family8 0x7 w h.1⟩, fun w h => ⟨rfl, family8 0xE w h.1⟩,
    fun w h => ⟨rfl, formatXY_of_F00F (op := 0x9#4) h.1⟩, nofun⟩

theorem opcodeMapHigh_sound : ∀ r ∈ opcodeMapHigh, r.Sound := by
  have familyE (sub : Byte) (w : Word) (h : w &&& 0xF0FF#16 = formatX 0xE#4 0 sub) := formatX_of_F0FF h
  have familyF (sub : Byte) (w : Word) (h : w &&& 0xF0FF#16 = formatX 0xF#4 0 sub) := formatX_of_F0FF h
  simp only [opcodeMapHigh, List.forall_mem_cons]
  exact ⟨fun w h => ⟨rfl, formatA_of_F000 (op := 0xA#4) h.1⟩, fun w h => ⟨rfl, formatA_of_F000 (op := 0xB#4) h.1⟩,
    fun w h => ⟨rfl, formatXK_of_F000 (op := 0xC#4) h.1⟩, fun w h => ⟨rfl, formatXYN_of_F000 (op := 0xD#4) h.1⟩,
    fun w h => ⟨rfl, familyE 0x9E w h.1⟩, fun w h => ⟨rfl, familyE 0xA1 w h.1⟩, fun w h => ⟨rfl, familyF 0x07 w h.1⟩,
    fun w h => ⟨rfl, familyF 0x0A w h.1⟩, fun w h => ⟨rfl, familyF 0x15 w h.1⟩, fun w h => ⟨rfl, familyF 0x18 w h.1⟩,
    fun w h => ⟨rfl, familyF 0x1E w h.1⟩, fun w h => ⟨rfl, familyF 0x29 w h.1⟩, fun w h => ⟨rfl, familyF 0x33 w h.1⟩,
    fun w h => ⟨rfl, familyF 0x55 w h.1⟩, fun w h => ⟨rfl, familyF 0x65 w h.1⟩, nofun⟩

theorem opcodeMap_sound {r : OpcodeRow} (row : r ∈ opcodeMap) : r.Sound := by
  rw [opcodeMap, List.mem_append, List.mem_append] at row
  rcases row with (low | mid) | high
  · exact opcodeMapLow_sound r low
  · exact opcodeMapMid_sound r mid
  · exact opcodeMapHigh_sound r high

/-- The row of an instruction stands in the map at the instruction's place in R60. -/
theorem exists_row_selects {i : Instr} (wf : i.wellFormed = true) : ∃ r ∈ opcodeMap, r.selects (encode i) := by
  have row (k : Nat) (inside : k < opcodeMap.length) (selects : opcodeMap[k].selects (encode i)) :
      ∃ r ∈ opcodeMap, r.selects (encode i) := ⟨_, List.getElem_mem inside, selects⟩
  cases i with
  | sys nnn =>
    refine row 0 (by decide) ⟨formatA_and_F000 0x0#4 nnn, fun taken => ?_⟩
    simp only [Instr.wellFormed, Bool.and_eq_true, bne_iff_ne] at wf
    rcases List.mem_cons.mp taken with cls | other
    · exact wf.1 ((formatA_zero_eq_iff nnn 0x0E0#12).mp cls)
    · exact wf.2 ((formatA_zero_eq_iff nnn 0x0EE#12).mp (List.mem_singleton.mp other))
  | cls => exact row 1 (by decide) ⟨rfl, nofun⟩
  | ret => exact row 2 (by decide) ⟨rfl, nofun⟩
  | jp nnn => exact row 3 (by decide) ⟨formatA_and_F000 0x1#4 nnn, nofun⟩
  | call nnn => exact row 4 (by decide) ⟨formatA_and_F000 0x2#4 nnn, nofun⟩
  | seImm x kk => exact row 5 (by decide) ⟨formatXK_and_F000 0x3#4 x kk, nofun⟩
  | sneImm x kk => exact row 6 (by decide) ⟨formatXK_and_F000 0x4#4 x kk, nofun⟩
  | seReg x y => exact row 7 (by decide) ⟨formatXY_and_F00F 0x5#4 0x0#4 x y, nofun⟩
  | ldImm x kk => exact row 8 (by decide) ⟨formatXK_and_F000 0x6#4 x kk, nofun⟩
  | addImm x kk => exact row 9 (by decide) ⟨formatXK_and_F000 0x7#4 x kk, nofun⟩
  | ldReg x y => exact row 10 (by decide) ⟨formatXY_and_F00F 0x8#4 0x0#4 x y, nofun⟩
  | orReg x y => exact row 11 (by decide) ⟨formatXY_and_F00F 0x8#4 0x1#4 x y, nofun⟩
  | andReg x y => exact row 12 (by decide) ⟨formatXY_and_F00F 0x8#4 0x2#4 x y, nofun⟩
  | xorReg x y => exact row 13 (by decide) ⟨formatXY_and_F00F 0x8#4 0x3#4 x y, nofun⟩
  | addReg x y => exact row 14 (by decide) ⟨formatXY_and_F00F 0x8#4 0x4#4 x y, nofun⟩
  | subReg x y => exact row 15 (by decide) ⟨formatXY_and_F00F 0x8#4 0x5#4 x y, nofun⟩
  | shr x y => exact row 16 (by decide) ⟨formatXY_and_F00F 0x8#4 0x6#4 x y, nofun⟩
  | subn x y => exact row 17 (by decide) ⟨formatXY_and_F00F 0x8#4 0x7#4 x y, nofun⟩
  | shl x y => exact row 18 (by decide) ⟨formatXY_and_F00F 0x8#4 0xE#4 x y, nofun⟩
  | sneReg x y => exact row 19 (by decide) ⟨formatXY_and_F00F 0x9#4 0x0#4 x y, nofun⟩
  | ldI nnn => exact row 20 (by decide) ⟨formatA_and_F000 0xA#4 nnn, nofun⟩
  | jpV0 nnn => exact row 21 (by decide) ⟨formatA_and_F000 0xB#4 nnn, nofun⟩
  | rnd x kk => exact row 22 (by decide) ⟨formatXK_and_F000 0xC#4 x kk, nofun⟩
  | drw x y n => exact row 23 (by decide) ⟨formatXY_and_F000 0xD#4 n x y, nofun⟩
  | skp x => exact row 24 (by decide) ⟨formatX_and_F0FF 0xE#4 x 0x9E#8, nofun⟩
  | sknp x => exact row 25 (by decide) ⟨formatX_and_F0FF 0xE#4 x 0xA1#8, nofun⟩
  | ldVxDT x => exact row 26 (by decide) ⟨formatX_and_F0FF 0xF#4 x 0x07#8, nofun⟩
  | ldVxK x => exact row 27 (by decide) ⟨formatX_and_F0FF 0xF#4 x 0x0A#8, nofun⟩
  | ldDTVx x => exact row 28 (by decide) ⟨formatX_and_F0FF 0xF#4 x 0x15#8, nofun⟩
  | ldSTVx x => exact row 29 (by decide) ⟨formatX_and_F0FF 0xF#4 x 0x18#8, nofun⟩
  | addI x => exact row 30 (by decide) ⟨formatX_and_F0FF 0xF#4 x 0x1E#8, nofun⟩
  | ldF x => exact row 31 (by decide) ⟨formatX_and_F0FF 0xF#4 x 0x29#8, nofun⟩
  | ldB x => exact row 32 (by decide) ⟨formatX_and_F0FF 0xF#4 x 0x33#8, nofun⟩
  | ldStore x => exact row 33 (by decide) ⟨formatX_and_F0FF 0xF#4 x 0x55#8, nofun⟩
  | ldLoad x => exact row 34 (by decide) ⟨formatX_and_F0FF 0xF#4 x 0x65#8, nofun⟩

/-- A rejection names the word it was given. -/
theorem decode_unknown_word {w u : Word} (h : decode w = .unknownOpcode u) : u = w := by
  unfold decode at h
  split at h
  case h_1 => exact absurd h (decodeFamily0_ne_unknown w u)
  case h_6 | h_10 => split at h <;> cases h; rfl
  case h_9 => unfold decodeFamily8 at h; split at h <;> cases h; rfl
  case h_15 => unfold decodeFamilyE at h; split at h <;> cases h; rfl
  case h_16 => unfold decodeFamilyF at h; split at h <;> cases h; rfl
  all_goals cases h

/-- Why no word is selected by both of two rows: their patterns differ in a bit that both masks keep, or the second row
is for one word that the first excludes. -/
def OpcodeRow.apart (r r' : OpcodeRow) : Bool :=
  r.pattern &&& r'.mask != r'.pattern &&& r.mask || (r'.mask == 0xFFFF#16 && r.excluded.contains r'.pattern)

theorem not_selected_twice {r r' : OpcodeRow} (apart : r.apart r' = true) (w : Word) :
    ¬(r.selects w ∧ r'.selects w) := by
  rintro ⟨⟨pattern, free⟩, ⟨pattern', -⟩⟩
  simp only [OpcodeRow.apart, Bool.or_eq_true, bne_iff_ne, Bool.and_eq_true, beq_iff_eq, List.contains_iff_mem] at apart
  rcases apart with differ | ⟨whole, taken⟩
  · apply differ
    rw [← pattern, ← pattern', BitVec.and_assoc, BitVec.and_assoc, BitVec.and_comm r.mask]
  · rw [whole] at pattern'
    exact free (eq_of_FFFF pattern' ▸ taken)

/-- Settles O3: a selected word is the word of its row's instruction, which decoding gives back (O1); a word that
decodes to an instruction is selected by that instruction's row (O2); the rows are pairwise apart. -/
theorem decoderFollowsTheOpcodeMap : Obligations.DecoderFollowsTheOpcodeMap := by
  refine ⟨fun w r row selected => ?_, fun w unselected => ?_, ?_⟩
  · obtain ⟨wf, word⟩ := opcodeMap_sound row w selected
    rw [← decodeOfEncodeIsTheInstruction _ wf, word]
  · cases decoded : decode w with
    | unknownOpcode u => rw [decode_unknown_word decoded]
    | instr i =>
      obtain ⟨wf, word⟩ := encodeOfDecodeIsTheWord w i decoded
      obtain ⟨r, row, selected⟩ := exists_row_selects wf
      exact absurd (word ▸ selected) (unselected r row)
  · have apart : opcodeMap.Pairwise (fun r r' => r.apart r' = true) := by decide
    exact apart.imp not_selected_twice

end Sys2Proof
end

section
/-! SUPPORT. The faults of an instruction, said once (60_exceptions.md R125 to R127): which record it raises in which
state, that raising it is the whole effect, and that an instruction outside its bound raises one. -/

namespace Sys2Proof.Machine

/-- `Raises s i r`: executed in `s`, the instruction `i` takes the fault `r`. -/
inductive Raises (s : State) : Instr → FaultRecord → Prop
  /-- R81. -/
  | call {nnn : Addr12} (full : s.sp.val = 16) : Raises s (.call nnn) (.stackOverflow s.pc (encode (.call nnn)))
  /-- R82. -/
  | ret (empty : s.sp.val = 0) : Raises s .ret (.stackUnderflow s.pc (encode .ret))
  /-- R104, R47. -/
  | drw {x y : RegNum} {n : Nibble} {bad : Nat} (first : firstOf unreadable s.i.toNat n.toNat bad) :
      Raises s (.drw x y n) (.memoryOutOfBounds s.pc (some (encode (.drw x y n))) bad)
  /-- R107, R48. -/
  | ldB {x : RegNum} {bad : Nat} (first : firstOf (unwritable s) s.i.toNat 3 bad) :
      Raises s (.ldB x) (.memoryOutOfBounds s.pc (some (encode (.ldB x))) bad)
  /-- R108, R48. -/
  | ldStore {x : RegNum} {bad : Nat} (first : firstOf (unwritable s) s.i.toNat (x.val + 1) bad) :
      Raises s (.ldStore x) (.memoryOutOfBounds s.pc (some (encode (.ldStore x))) bad)
  /-- R109, R47. -/
  | ldLoad {x : RegNum} {bad : Nat} (first : firstOf unreadable s.i.toNat (x.val + 1) bad) :
      Raises s (.ldLoad x) (.memoryOutOfBounds s.pc (some (encode (.ldLoad x))) bad)
  /-- R116, R117. -/
  | skp {x : RegNum} (policy : s.cfg.keyIndexPolicy = .fault) (big : (s.readV x).toNat > 0xF) :
      Raises s (.skp x) (.keyOutOfRange s.pc (encode (.skp x)) (s.readV x))
  /-- R116, R118. -/
  | sknp {x : RegNum} (policy : s.cfg.keyIndexPolicy = .fault) (big : (s.readV x).toNat > 0xF) :
      Raises s (.sknp x) (.keyOutOfRange s.pc (encode (.sknp x)) (s.readV x))

/-! The operation that fails, failing. -/

theorem push_full {s : State} (full : s.sp.val = 16) (w : Word) : s.push w = none := by
  simp [State.push, full]

theorem pop_empty {s : State} (empty : s.sp.val = 0) : s.pop = none := by
  simp [State.pop, empty]

theorem keyOf_out_of_range {policy : KeyIndexPolicy} {v : Byte} (fault : policy = .fault) (big : v.toNat > 0xF) :
    keyOf policy v = none := by
  simp [keyOf, fault, big]

@[simp] theorem length_decimalDigits (v : Byte) : (decimalDigits v).length = 3 := rfl

/-- A raised fault is the whole effect of the instruction (R127). -/
theorem exec_of_raises {s : State} {i : Instr} {r : FaultRecord} (raises : Raises s i r) :
    exec i s = .next (faultedWith s r) := by
  cases raises with
  | call full => simp only [exec, execCall, push_full full, raise_eq_faultedWith]
  | ret empty => simp only [exec, execRet, pop_empty empty, raise_eq_faultedWith]
  | drw first => simp only [exec, execDrw, memRead_error first, raise_eq_faultedWith]
  | @ldB x _ first =>
    have stops := memWrite_error (bytes := decimalDigits (s.readV x)) first
    simp only [exec, execLdB, stops, raise_eq_faultedWith]
  | @ldStore x _ first =>
    have stops := memWrite_error (bytes := s.readVs x) (length_readVs s x ▸ first)
    simp only [exec, execLdStore, stops, raise_eq_faultedWith]
  | ldLoad first => simp only [exec, execLdLoad, memRead_error first, raise_eq_faultedWith]
  | skp policy big => simp only [exec, execSkp, keyOf_out_of_range policy big, raise_eq_faultedWith]
  | sknp policy big => simp only [exec, execSknp, keyOf_out_of_range policy big, raise_eq_faultedWith]

/-! The record, and the bound that the state breaks. -/

section
variable {s : State} {i : Instr} {r : FaultRecord}

theorem Raises.pc_eq (raises : Raises s i r) : r.pc = s.pc := by cases raises <;> rfl

theorem Raises.word_eq (raises : Raises s i r) : r.word = some (encode i) := by cases raises <;> rfl

theorem not_noneOf_of_firstOf {p : Nat → Prop} {a n bad : Nat} (first : firstOf p a n bad) : ¬noneOf p a n :=
  fun none => none bad first.1 first.2.1 first.2.2.1

theorem Raises.not_fits (raises : Raises s i r) : ¬fits i s := by
  cases raises with
  | call full => simp only [fits]; omega
  | ret empty => simp only [fits]; omega
  | drw first | ldB first | ldStore first | ldLoad first => exact not_noneOf_of_firstOf first
  | skp policy big | sknp policy big => exact fun bound => absurd (bound policy) (by omega)

/-- An access of which some address fails has a first one that fails. -/
theorem exists_firstOf {p : Nat → Prop} {a n : Nat} (some : ¬noneOf p a n) : ∃ bad, firstOf p a n bad := by
  classical
  simp only [noneOf, not_forall, not_not] at some
  obtain ⟨b, low, high, fails⟩ := some
  have failing : ∃ b, a ≤ b ∧ p b := ⟨b, low, fails⟩
  obtain ⟨start, bad⟩ := Nat.find_spec failing
  have below : Nat.find failing ≤ b := Nat.find_min' failing ⟨low, fails⟩
  exact ⟨Nat.find failing, start, by omega, bad, fun c from_a before bad =>
    Nat.find_min failing before ⟨from_a, bad⟩⟩

/-- An instruction outside its bound raises a fault. -/
theorem exists_raises (outside : ¬fits i s) : ∃ r, Raises s i r := by
  cases i with
  | call nnn =>
    have := s.sp.isLt
    exact ⟨_, .call (by simp only [fits] at outside; omega)⟩
  | ret => exact ⟨_, .ret (by simp only [fits] at outside; omega)⟩
  | drw x y n => exact (exists_firstOf outside).elim fun _ first => ⟨_, .drw first⟩
  | ldB x => exact (exists_firstOf outside).elim fun _ first => ⟨_, .ldB first⟩
  | ldStore x => exact (exists_firstOf outside).elim fun _ first => ⟨_, .ldStore first⟩
  | ldLoad x => exact (exists_firstOf outside).elim fun _ first => ⟨_, .ldLoad first⟩
  | skp x =>
    obtain ⟨policy, big⟩ := Classical.not_imp.mp outside
    exact ⟨_, .skp policy (by omega)⟩
  | sknp x =>
    obtain ⟨policy, big⟩ := Classical.not_imp.mp outside
    exact ⟨_, .sknp policy (by omega)⟩
  | _ => exact absurd trivial outside

end

end Sys2Proof.Machine
end

section
/-! SUPPORT. The return stack and the indexed jump (41_control_flow.md R81 to R83). -/

namespace Sys2Proof.Machine

/-- A return stack that the frame names may be written. -/
theorem Frame.setStack {w : Writes} {s t : State} (kept : Frame w s t) (named : w.stack = true)
    (entries : Vector Word 16) (sp : Fin 17) : Frame w s { t with stack := entries, sp := sp } :=
  { kept with stack := fun unnamed => absurd named (Bool.eq_false_iff.mp unnamed) }

/-- `CALL` with room on the stack. -/
theorem exec_call_room (nnn : Addr12) {s : State} (room : s.sp.val < 16) :
    exec (.call nnn) s = .next (State.setPc
      { s with stack := s.stack.set s.sp.val (s.pc + 2#16), sp := ⟨s.sp.val + 1, by omega⟩ } (nnn.setWidth 16)) := by
  simp only [exec, execCall, State.push, dif_pos room]

/-- `RET` with a return address on the stack. -/
theorem exec_ret_held {s : State} (held : 0 < s.sp.val) :
    exec .ret s = .next (State.setPc { s with sp := ⟨s.sp.val - 1, by omega⟩ } (s.stack[s.sp.val - 1]'(by omega))) := by
  simp only [exec, execRet, State.pop, dif_pos held]

@[simp] theorem exec_jpV0 (nnn : Addr12) (s : State) :
    exec (.jpV0 nnn) s = .next (s.setPc (nnn.setWidth 16 + (s.readV 0).setWidth 16)) := rfl

/-- The sum of a 12-bit address and a byte fits in 16 bits. -/
theorem toNat_indexedAddress (nnn : Addr12) (b : Byte) :
    (nnn.setWidth 16 + b.setWidth 16 : Word).toNat = nnn.toNat + b.toNat := by
  have := nnn.isLt
  have := b.isLt
  simp only [BitVec.toNat_add, BitVec.toNat_setWidth]
  omega

/-- Settles O7: the push writes one entry, and the widened address keeps its value. -/
theorem callPushesTheReturnAddressOrOverflows : Obligations.CallPushesTheReturnAddressOrOverflows := by
  intro nnn s
  refine ⟨fun room => ⟨_, exec_call_room nnn room, rfl, fun j => ?_, BitVec.toNat_setWidth_of_le (by decide),
    ((Frame.refl _ s).setStack rfl _ _).setPc _⟩, fun full => exec_of_raises (.call full)⟩
  simp only [setPc_stack, Vector.getElem_set, eq_comm]

/-- Settles O8: the pop moves the stack pointer alone. -/
theorem returnPopsTheTargetOrUnderflows : Obligations.ReturnPopsTheTargetOrUnderflows := by
  intro s
  refine ⟨fun j top => ⟨_, exec_ret_held (by omega), ?_, rfl, ?_, ((Frame.refl _ s).setStack rfl _ _).setPc _⟩,
    fun empty => exec_of_raises (.ret empty)⟩
  · simp [top]
  · simp [top]

/-- Settles O9: the popped entry is the one pushed, and the entries below it were not written (O7, O8). -/
theorem returnUndoesCall : Obligations.ReturnUndoesCall := by
  intro nnn s t u room called returned
  obtain ⟨t', left, spCall, pushed, -, -⟩ := (callPushesTheReturnAddressOrOverflows nnn s).1 room
  cases called.symm.trans left
  obtain ⟨u', left, spRet, same, target, -⟩ := (returnPopsTheTargetOrUnderflows t).1 ⟨s.sp.val, room⟩ spCall
  cases returned.symm.trans left
  refine ⟨?_, Fin.ext spRet, fun j below => ?_⟩
  · rw [target, pushed ⟨s.sp.val, room⟩, if_pos rfl]
  · rw [same, pushed j, if_neg (by omega)]

/-- Settles O10: the sum is exact, whatever the address and `V[0]`. -/
theorem indexedJumpAddsV0 : Obligations.IndexedJumpAddsV0 := fun nnn s =>
  ⟨_, exec_jpV0 nnn s, toNat_indexedAddress .., (Frame.refl _ s).setPc _⟩

end Sys2Proof.Machine
end

section
/-! SUPPORT. The instructions of 42_alu.md left: the immediate addition, logic, the random byte, and the shifts with
both sources (R91, R93 to R95, R98, R100, R101). -/

namespace Sys2Proof.Machine

@[simp] theorem exec_addImm (x : RegNum) (kk : Byte) (s : State) :
    exec (.addImm x kk) s = .next (s.finishPlain x (s.readV x + kk)) := rfl

@[simp] theorem exec_orReg (x y : RegNum) (s : State) :
    exec (.orReg x y) s = .next (s.finishPlain x (s.readV x ||| s.readV y)) := rfl

@[simp] theorem exec_andReg (x y : RegNum) (s : State) :
    exec (.andReg x y) s = .next (s.finishPlain x (s.readV x &&& s.readV y)) := rfl

@[simp] theorem exec_xorReg (x y : RegNum) (s : State) :
    exec (.xorReg x y) s = .next (s.finishPlain x (s.readV x ^^^ s.readV y)) := rfl

@[simp] theorem exec_rnd (x : RegNum) (kk : Byte) (s : State) :
    exec (.rnd x kk) s = .next (s.finishPlain x (s.input.rnd &&& kk)) := rfl

@[simp] theorem exec_shr (x y : RegNum) (s : State) : exec (.shr x y) s =
    .next (s.finishFlagged x (s.shiftOperand x y >>> 1) (shiftedOutRight (s.shiftOperand x y))) := rfl

@[simp] theorem exec_shl (x y : RegNum) (s : State) : exec (.shl x y) s =
    .next (s.finishFlagged x (s.shiftOperand x y <<< 1) (shiftedOutLeft (s.shiftOperand x y))) := rfl

/-- Settles O14: a byte sum is the sum modulo 256. -/
theorem addImmediateWrapsWithoutFlag : Obligations.AddImmediateWrapsWithoutFlag := by
  intro x kk s
  refine ⟨_, exec_addImm x kk s, ?_, finishPlain_pc .., frame_finishPlain ..⟩
  rw [readV_finishPlain_same, BitVec.toNat_add]

/-- Settles O15: each word operation works on the bits. -/
theorem logicWorksBitByBitWithoutFlag : Obligations.LogicWorksBitByBitWithoutFlag := by
  intro x y s
  refine ⟨⟨_, exec_orReg x y s, fun b => ?_, finishPlain_pc .., frame_finishPlain ..⟩,
    ⟨_, exec_andReg x y s, fun b => ?_, finishPlain_pc .., frame_finishPlain ..⟩,
    ⟨_, exec_xorReg x y s, fun b => ?_, finishPlain_pc .., frame_finishPlain ..⟩⟩
  · rw [readV_finishPlain_same, BitVec.getLsbD_or]
  · rw [readV_finishPlain_same, BitVec.getLsbD_and]
  · rw [readV_finishPlain_same, BitVec.getLsbD_xor]

/-- Settles O19: the mask works on the bits, whatever the input. -/
theorem randomMasksTheCyclesInput : Obligations.RandomMasksTheCyclesInput := by
  intro x kk s
  refine ⟨_, exec_rnd x kk s, fun b => ?_, finishPlain_pc .., frame_finishPlain ..⟩
  rw [readV_finishPlain_same, BitVec.getLsbD_and]

/-- `SHIFT_SOURCE` picks the register that is shifted (R98, R100). -/
theorem shiftOperand_eq {s : State} {x y src : RegNum}
    (source : (s.cfg.shiftSource = .vx ∧ src = x) ∨ (s.cfg.shiftSource = .vy ∧ src = y)) :
    s.shiftOperand x y = s.readV src := by
  rcases source with ⟨vx, rfl⟩ | ⟨vy, rfl⟩
  · rw [State.shiftOperand, vx]
  · rw [State.shiftOperand, vy]

/-- A bit of a byte as the number `VF` holds. -/
theorem toNat_flagByte_bit (b : Byte) (k : Nat) : (flagByte (b.getLsbD k)).toNat = b.toNat / 2 ^ k % 2 := by
  rw [toNat_flagByte, BitVec.getLsbD, Nat.testBit_eq_decide_div_mod_eq]
  simp only [decide_eq_true_eq]
  split <;> omega

theorem toNat_shiftedOutRight (b : Byte) : (flagByte (shiftedOutRight b)).toNat = b.toNat % 2 := by
  rw [shiftedOutRight, toNat_flagByte_bit, pow_zero, Nat.div_one]

theorem toNat_shiftedOutLeft (b : Byte) : (flagByte (shiftedOutLeft b)).toNat = b.toNat / 128 := by
  have := b.isLt
  rw [shiftedOutLeft, toNat_flagByte_bit]
  omega

/-- Settles O18: halving and doubling a byte shift out its low and its high bit, written in `VF` last. -/
theorem shiftsWriteResultThenBitShiftedOut : Obligations.ShiftsWriteResultThenBitShiftedOut := by
  intro x y src s source
  refine ⟨⟨_, exec_shr x y s, fun notVF => ?_, ?_, finishFlagged_pc .., frame_finishFlagged ..⟩,
    ⟨_, exec_shl x y s, fun notVF => ?_, ?_, finishFlagged_pc .., frame_finishFlagged ..⟩⟩
  · rw [readV_finishFlagged_same s _ _ notVF, shiftOperand_eq source, BitVec.toNat_ushiftRight, Nat.shiftRight_one]
  · rw [readV_finishFlagged_VF, shiftOperand_eq source, toNat_shiftedOutRight]
  · rw [readV_finishFlagged_same s _ _ notVF, shiftOperand_eq source, BitVec.toNat_shiftLeft, Nat.shiftLeft_eq,
      Nat.mul_comm, pow_one]
  · rw [readV_finishFlagged_VF, shiftOperand_eq source, toNat_shiftedOutLeft]

end Sys2Proof.Machine
end

section
/-! SUPPORT. Drawing (43_display.md R102 to R105): the sprite that a `DRW` reads from memory, what it does to the
framebuffer and to `VF`, and drawing it a second time. -/

namespace Sys2Proof.Machine

/-- What `DRW Vx, Vy, n` draws where its sprite bytes are readable: the framebuffer and the collision flag. -/
def State.drawn (s : State) (x y : RegNum) (n : Nibble) : Framebuffer × Bool :=
  drawSprite s.cfg.spriteEdge ((s.readV x).toNat % 64) ((s.readV y).toNat % 32) (s.bytesAt s.i.toNat n.toNat) s.fb

/-- The state that `DRW` leaves where its sprite bytes are readable. -/
def State.finishDraw (s : State) (x y : RegNum) (n : Nibble) : State :=
  ((s.setDisplay (s.drawn x y n).1).setFlag (s.drawn x y n).2).advance

theorem exec_drw_readable (x y : RegNum) {n : Nibble} {s : State} (readable : noneOf unreadable s.i.toNat n.toNat) :
    exec (.drw x y n) s = .next (s.finishDraw x y n) := by
  simp only [exec, execDrw, memRead_ok readable, State.finishDraw, State.drawn]

section
variable (s : State) (x y : RegNum) (n : Nibble)

@[simp] theorem finishDraw_fb : (s.finishDraw x y n).fb = (s.drawn x y n).1 := rfl
@[simp] theorem finishDraw_redraw : (s.finishDraw x y n).redraw = true := rfl
@[simp] theorem finishDraw_pc : (s.finishDraw x y n).pc = s.pc + 2#16 := rfl

@[simp] theorem readV_finishDraw_VF : (s.finishDraw x y n).readV 15 = flagByte (s.drawn x y n).2 :=
  readV_setFlag_VF (s.setDisplay _) _

theorem frame_finishDraw : Frame { regs := [15], display := true } s (s.finishDraw x y n) :=
  (((Frame.refl _ s).setDisplay rfl _).setFlag (List.mem_singleton_self 15) _).setPc _

/-- A sprite has at most 15 rows, so it covers no pixel twice. -/
theorem length_sprite_le : (s.bytesAt s.i.toNat n.toNat).length ≤ 32 := by
  have := n.isLt
  rw [length_bytesAt]
  omega

end

/-! The pixels of the sprite. -/

section
variable {s : State} {x y : RegNum} {n : Nibble} {x0 y0 : Nat} {row : Fin 32} {col : Fin 64}

theorem drawn_pixel_covered (column : x0 = (s.readV x).toNat % 64) (line : y0 = (s.readV y).toNat % 32)
    (covers : spriteCovers s x0 y0 n.toNat row col) : (s.drawn x y n).1.pixel row col = !s.fb.pixel row col := by
  subst column line
  rw [State.drawn, (drawSprite_spec _ _ _ (length_sprite_le s n) s.fb).1,
    if_pos (mem_spritePixels_iff_covers.mpr covers)]

theorem drawn_pixel_kept (column : x0 = (s.readV x).toNat % 64) (line : y0 = (s.readV y).toNat % 32)
    (free : ¬spriteCovers s x0 y0 n.toNat row col) : (s.drawn x y n).1.pixel row col = s.fb.pixel row col := by
  subst column line
  rw [State.drawn, (drawSprite_spec _ _ _ (length_sprite_le s n) s.fb).1,
    if_neg (mt mem_spritePixels_iff_covers.mp free)]

theorem drawn_collides_iff (column : x0 = (s.readV x).toNat % 64) (line : y0 = (s.readV y).toNat % 32) :
    (s.drawn x y n).2 = true ↔ ∃ row col, spriteCovers s x0 y0 n.toNat row col ∧ s.fb.pixel row col = true := by
  subst column line
  simp only [State.drawn, (drawSprite_spec _ _ _ (length_sprite_le s n) s.fb).2, mem_spritePixels_iff_covers]

end

/-- A flag is 0 or 1 as a byte. -/
theorem flagByte_zero_or_one (f : Bool) : flagByte f = 0x00#8 ∨ flagByte f = 0x01#8 := by
  cases f
  · exact .inl rfl
  · exact .inr rfl

theorem flagByte_eq_one_iff (f : Bool) : flagByte f = 0x01#8 ↔ f = true := by
  cases f <;> decide

/-- Settles O22: the pixels and the collision are those of the sprite in memory; a sprite byte out of range is raised
before any of them is drawn. -/
theorem drawXorsTheSpriteOrFaults : Obligations.DrawXorsTheSpriteOrFaults := by
  intro x y n s x0 y0 column line
  refine ⟨fun readable => ⟨_, exec_drw_readable x y readable, fun row col => drawn_pixel_covered column line,
    fun row col => drawn_pixel_kept column line, fun hit => ?_, fun missed => ?_, finishDraw_redraw ..,
    finishDraw_pc .., frame_finishDraw ..⟩,
    fun bad first => exec_of_raises (.drw first)⟩
  · rw [readV_finishDraw_VF, (drawn_collides_iff column line).mpr hit]
    rfl
  · have quiet : (s.drawn x y n).2 = false := by
      refine Bool.eq_false_iff.mpr fun collides => ?_
      obtain ⟨row, col, covers, set⟩ := (drawn_collides_iff column line).mp collides
      exact absurd set (Bool.eq_false_iff.mp (missed row col covers))
    rw [readV_finishDraw_VF, quiet]
    rfl

/-- Settles O23: a sprite without rows has no byte to read and no pixel to flip. -/
theorem drawOfZeroRowsOnlyClearsTheFlag : Obligations.DrawOfZeroRowsOnlyClearsTheFlag := by
  intro x y s
  have readable : noneOf unreadable s.i.toNat (0x0#4).toNat := fun b low high => absurd high (by simpa using low)
  exact ⟨_, exec_drw_readable x y readable, rfl, readV_finishDraw_VF .., finishDraw_redraw .., finishDraw_pc ..,
    frame_finishDraw ..⟩

/-- Settles O24: the second draw reads the same sprite, flips back what the first flipped, and a covered pixel that is
set then is one that the first draw set. -/
theorem drawingTwiceRestoresTheDisplay : Obligations.DrawingTwiceRestoresTheDisplay := by
  intro x y n s t u readable first second column line
  cases first.symm.trans (exec_drw_readable x y readable)
  cases second.symm.trans (exec_drw_readable x y (s := s.finishDraw x y n) readable)
  obtain ⟨x0, atColumn⟩ : ∃ x0, x0 = (s.readV x).toNat % 64 := ⟨_, rfl⟩
  obtain ⟨y0, atLine⟩ : ∃ y0, y0 = (s.readV y).toNat % 32 := ⟨_, rfl⟩
  have column' := atColumn.trans column.symm
  have line' := atLine.trans line.symm
  have flipped {row : Fin 32} {col : Fin 64} (covers : spriteCovers s x0 y0 n.toNat row col) :
      (s.finishDraw x y n).fb.pixel row col = !s.fb.pixel row col := drawn_pixel_covered atColumn atLine covers
  have kept {row : Fin 32} {col : Fin 64} (free : ¬spriteCovers s x0 y0 n.toNat row col) :
      (s.finishDraw x y n).fb.pixel row col = s.fb.pixel row col := drawn_pixel_kept atColumn atLine free
  constructor
  · refine framebuffer_ext fun row col => ?_
    by_cases covers : spriteCovers s x0 y0 n.toNat row col
    · rw [finishDraw_fb, drawn_pixel_covered column' line' covers, flipped covers, Bool.not_not]
    · rw [finishDraw_fb, drawn_pixel_kept column' line' covers, kept covers]
  · rw [readV_finishDraw_VF, flagByte_eq_one_iff, drawn_collides_iff column' line']
    constructor
    · rintro ⟨row, col, covers, set⟩
      refine ⟨row, col, set, ?_⟩
      rwa [flipped covers, Bool.not_eq_true'] at set
    · rintro ⟨row, col, set, unset⟩
      refine ⟨row, col, ?_, set⟩
      by_contra free
      rw [kept free, unset] at set
      exact Bool.false_ne_true set

/-- Settles O21: each of the six writes a flag in `VF` last; a `DRW` that faults does not leave a safe state. -/
theorem flagIsExactlyZeroOrOne : Obligations.FlagIsExactlyZeroOrOne := by
  intro x y n s t safe left
  rcases left with h | h | h | h | h | h
  case inr.inr.inr.inr.inr =>
    by_cases readable : noneOf unreadable s.i.toNat n.toNat
    · cases h.symm.trans (exec_drw_readable x y readable)
      rw [readV_finishDraw_VF]
      exact flagByte_zero_or_one _
    · obtain ⟨bad, first⟩ := exists_firstOf readable
      cases h.symm.trans (exec_of_raises (.drw first))
      cases safe
  all_goals
    cases h
    exact (readV_finishFlagged_VF ..).symm ▸ flagByte_zero_or_one _

end Sys2Proof.Machine
end

section
/-! SUPPORT. The memory block (44_memory_block.md R107 to R109): bytes are written or registers loaded in order, once no
address of the access fails; and a load by the host (70_reset_and_hazards.md R142), which is the same write. -/

namespace Sys2Proof.Machine

/-! What a write of bytes leaves. -/

theorem readByte_putBytes_inside (s : State) (a : Nat) (bytes : List Byte) (k : Nat) (inside : k < bytes.length) :
    (s.putBytes a bytes).readByte (a + k) = bytes[k] := by
  rw [readByte_putBytes, dif_pos ⟨by omega, by omega⟩]
  simp only [Nat.add_sub_cancel_left]

theorem readByte_putBytes_outside (s : State) {a j : Nat} {bytes : List Byte}
    (outside : ¬(a ≤ j ∧ j < a + bytes.length)) : (s.putBytes a bytes).readByte j = s.readByte j := by
  rw [readByte_putBytes, dif_neg outside]

/-- Bytes may be stored where the frame says. -/
theorem Frame.putBytes {w : Writes} {s t : State} (kept : Frame w s t) (bytes : List Byte)
    (named : bytes.length = w.length) : Frame w s (t.putBytes w.base bytes) :=
  { kept with
    memory := fun a outside => by
      rw [readByte_putBytes_outside t (named ▸ outside), kept.memory a outside] }

/-- Registers that the frame names may be loaded. -/
theorem Frame.setVs {w : Writes} {s t : State} (kept : Frame w s t) (bytes : List Byte)
    (named : ∀ r : RegNum, r.val < bytes.length → r ∈ w.regs) : Frame w s (t.setVs bytes) :=
  { kept with
    regs := fun r free => by
      rw [readV_setVs, dif_neg (mt (named r) free), kept.regs r free] }

/-! What each instruction does where no address of its access fails. -/

theorem exec_ldB_writable {x : RegNum} {s : State} (writable : noneOf (unwritable s) s.i.toNat 3) :
    exec (.ldB x) s = .next (s.putBytes s.i.toNat (decimalDigits (s.readV x))).advance := by
  have written := memWrite_ok (bytes := decimalDigits (s.readV x)) writable
  simp only [exec, execLdB, written]

theorem exec_ldStore_writable {x : RegNum} {s : State} (writable : noneOf (unwritable s) s.i.toNat (x.val + 1)) :
    exec (.ldStore x) s = .next (s.putBytes s.i.toNat (s.readVs x)).advance := by
  have written := memWrite_ok (bytes := s.readVs x) (length_readVs s x ▸ writable)
  simp only [exec, execLdStore, written]

theorem exec_ldLoad_readable {x : RegNum} {s : State} (readable : noneOf unreadable s.i.toNat (x.val + 1)) :
    exec (.ldLoad x) s = .next (s.setVs (s.bytesAt s.i.toNat (x.val + 1))).advance := by
  simp only [exec, execLdLoad, memRead_ok readable]

theorem frame_ldB (s : State) (x : RegNum) : Frame { base := s.i.toNat, length := 3 } s
    (s.putBytes s.i.toNat (decimalDigits (s.readV x))).advance :=
  ((Frame.refl { base := s.i.toNat, length := 3 } s).putBytes _ rfl).setPc _

theorem frame_ldStore (s : State) (x : RegNum) : Frame { base := s.i.toNat, length := x.val + 1 } s
    (s.putBytes s.i.toNat (s.readVs x)).advance :=
  ((Frame.refl { base := s.i.toNat, length := x.val + 1 } s).putBytes _ (length_readVs s x)).setPc _

theorem frame_ldLoad (s : State) (x : RegNum) : Frame { regs := (List.finRange 16).filter (fun k => k ≤ x) } s
    (s.setVs (s.bytesAt s.i.toNat (x.val + 1))).advance := by
  refine ((Frame.refl _ s).setVs _ fun r loaded => ?_).setPc _
  rw [length_bytesAt] at loaded
  exact List.mem_filter.mpr ⟨List.mem_finRange r, decide_eq_true (Fin.le_def.mpr (by omega))⟩

/-- A digit fits in a byte. -/
theorem toNat_digit {d : Nat} (small : d < 256) : (BitVec.ofNat 8 d).toNat = d := by
  rw [BitVec.toNat_ofNat, Nat.mod_eq_of_lt small]

/-- Settles O26: the digits stand in ascending addresses, hundreds first, and each fits in a byte. -/
theorem storeDecimalDigitsOrFault : Obligations.StoreDecimalDigitsOrFault := by
  intro x s
  have bound := (s.readV x).isLt
  have digit := readByte_putBytes_inside s s.i.toNat (decimalDigits (s.readV x))
  simp only [length_decimalDigits] at digit
  refine ⟨fun writable => ⟨_, exec_ldB_writable writable, ?_, ?_, ?_, rfl, frame_ldB s x⟩,
    fun bad first => exec_of_raises (.ldB first)⟩
  · exact (congrArg BitVec.toNat (digit 0 (by decide))).trans (toNat_digit (by omega))
  · exact (congrArg BitVec.toNat (digit 1 (by decide))).trans (toNat_digit (by omega))
  · exact (congrArg BitVec.toNat (digit 2 (by decide))).trans (toNat_digit (by omega))

/-- Settles O27: the registers stand in ascending addresses. -/
theorem storeRegistersOrFault : Obligations.StoreRegistersOrFault := by
  intro x s
  refine ⟨fun writable => ⟨_, exec_ldStore_writable writable, fun k low => ?_, rfl, frame_ldStore s x⟩,
    fun bad first => exec_of_raises (.ldStore first)⟩
  rw [advance_readByte, readByte_putBytes_inside s _ _ k.val (by rw [length_readVs]; omega), getElem_readVs]

/-- Settles O28: the bytes come from ascending addresses, and no register past the last of them is written. -/
theorem loadRegistersOrFault : Obligations.LoadRegistersOrFault := by
  intro x s
  refine ⟨fun readable => ⟨_, exec_ldLoad_readable readable, fun k low => ?_, rfl, frame_ldLoad s x⟩,
    fun bad first => exec_of_raises (.ldLoad first)⟩
  rw [advance_readV, readV_setVs, dif_pos (by rw [length_bytesAt]; omega), getElem_bytesAt]

/-- Settles O29: a store that does not fault has written both bytes inside the address space (O27), where a fetch reads
them. -/
theorem storedBytesAreFetchedAtOnce : Obligations.StoredBytesAreFetchedAtOnce := by
  intro x s t two safe left unfaulted
  by_cases writable : noneOf (unwritable s) s.i.toNat (x.val + 1)
  · obtain ⟨t', stored, bytes, -, -⟩ := (storeRegistersOrFault x s).1 writable
    cases left.symm.trans stored
    have inside := noneOf_unwritable_inside (by omega) writable
    rcases fetch_cases (t.setPc s.i) with ⟨-, fetched⟩ | ⟨edge, -⟩ | ⟨beyond, -⟩
    · have high : t.readByte s.i.toNat = s.readV 0 := bytes 0 (by simp)
      have low : t.readByte (s.i.toNat + 1) = s.readV 1 := bytes 1 two
      rw [fetched, setPc_pc, setPc_readByte, setPc_readByte, high, low]
      rfl
    · rw [setPc_pc] at edge
      omega
    · rw [setPc_pc] at beyond
      omega
  · obtain ⟨bad, first⟩ := exists_firstOf writable
    cases left.symm.trans (exec_of_raises (.ldStore first))
    cases unfaulted

/-- Settles O56: the bound is checked once for the whole load, and the write is of memory alone. -/
theorem loadWritesTheBytesOrNothing : Obligations.LoadWritesTheBytesOrNothing := by
  intro offset bytes s
  refine ⟨fun fits => ⟨s.putBytes offset bytes, if_neg (by omega), rfl, readByte_putBytes_inside s offset bytes,
    fun a outside => readByte_putBytes_outside s outside⟩, fun large => if_pos large⟩

end Sys2Proof.Machine
end

section
/-! SUPPORT. The keys (45_timers_keys.md R116 to R120): the skips on a key, the key read, and the key wait, whose cycle
is the key read over again. -/

namespace Sys2Proof.Machine

/-- A status that the frame names may be written. -/
theorem Frame.setStatus {w : Writes} {s t : State} (kept : Frame w s t) (named : w.status = true) (status : Status) :
    Frame w s (t.setStatus status) :=
  { kept with status := fun unnamed => absurd named (Bool.eq_false_iff.mp unnamed) }

/-! The skips. -/

/-- A register value names the key of its low nibble, where the policy lets it. -/
theorem keyOf_in_range {policy : KeyIndexPolicy} {v : Byte} {k : RegNum} (low : k.val = v.toNat % 16)
    (allowed : policy = .mask ∨ v.toNat ≤ 0xF) : keyOf policy v = some k := by
  have named : Fin.ofNat 16 v.toNat = k := Fin.ext low.symm
  rcases keyOf_cases policy v with ⟨fault, big, -⟩ | ⟨-, key⟩
  · rcases allowed with mask | small
    · cases fault.symm.trans mask
    · omega
  · rw [key, named]

theorem exec_skp_key {x k : RegNum} {s : State} (key : keyOf s.cfg.keyIndexPolicy (s.readV x) = some k) :
    exec (.skp x) s = .next (s.skipIf (s.key k)) := by
  simp only [exec, execSkp, key]

theorem exec_sknp_key {x k : RegNum} {s : State} (key : keyOf s.cfg.keyIndexPolicy (s.readV x) = some k) :
    exec (.sknp x) s = .next (s.skipIf (!s.key k)) := by
  simp only [exec, execSknp, key]

/-- Settles O31: both skips test the key that the policy allows, and one does not allow a value above 0xF. -/
theorem keySkipsTestTheKeyOrFault : Obligations.KeySkipsTestTheKeyOrFault := by
  intro x k s low
  constructor
  · intro allowed
    have key := keyOf_in_range low allowed
    refine ⟨⟨_, exec_skp_key key, rfl, (Frame.refl _ s).skipIf _⟩,
      ⟨_, exec_sknp_key key, ?_, (Frame.refl _ s).skipIf _⟩⟩
    cases s.key k <;> rfl
  · rintro ⟨policy, big⟩
    exact ⟨exec_of_raises (.skp policy big), exec_of_raises (.sknp policy big)⟩

/-! The key read and the key wait. -/

theorem exec_ldVxK_pressed {x k : RegNum} {s : State} (lowest : s.lowestKey = some k) :
    exec (.ldVxK x) s = .next (s.finishPlain x (BitVec.ofNat 8 k.val)) := by
  simp only [exec, execLdVxK, lowest, State.finishPlain]

theorem exec_ldVxK_none {x : RegNum} {s : State} (none : s.lowestKey = none) :
    exec (.ldVxK x) s = .next (s.setStatus (.awaitingKey x)) := by
  simp only [exec, execLdVxK, none]

theorem keyWaitStep_pressed {x k : RegNum} {s : State} (lowest : s.lowestKey = some k) :
    s.keyWaitStep x = (s.finishPlain x (BitVec.ofNat 8 k.val)).setStatus .running := by
  simp only [State.keyWaitStep, lowest, State.finishPlain]

theorem keyWaitStep_none {x : RegNum} {s : State} (none : s.lowestKey = none) : s.keyWaitStep x = s := by
  simp only [State.keyWaitStep, none]

theorem step_awaitingKey {x : RegNum} {s : State} (waits : s.status = .awaitingKey x) :
    step s = .next (s.keyWaitStep x).endCycle := by
  simp only [step, waits, finishCycle]

theorem toNat_key (k : RegNum) : (BitVec.ofNat 8 k.val).toNat = k.val := toNat_digit (by omega)

/-- Settles O32: the key read writes a register or the status, by whether a key is pressed. -/
theorem keyReadStoresLowestKeyOrWaits : Obligations.KeyReadStoresLowestKeyOrWaits := by
  intro x s
  refine ⟨fun k pressed least => ⟨_, exec_ldVxK_pressed (lowestKey_some.mpr ⟨pressed, least⟩), ?_, finishPlain_pc ..,
    frame_finishPlain ..⟩, fun none => ⟨_, exec_ldVxK_none (lowestKey_none.mpr none), rfl, rfl,
    (Frame.refl _ s).setStatus rfl _⟩⟩
  rw [readV_finishPlain_same, toNat_key]

/-- Settles O33: the cycle of a key wait ends the wait as the key read would have ended, or stays. -/
theorem keyWaitCycleCompletesOrStays : Obligations.KeyWaitCycleCompletesOrStays := by
  intro x s waits
  constructor
  · intro k pressed least
    have ends := keyWaitStep_pressed (x := x) (lowestKey_some.mpr ⟨pressed, least⟩)
    refine ⟨_, step_awaitingKey waits, ?_⟩
    rw [ends]
    refine ⟨?_, rfl, rfl, (((Frame.refl _ s).setV (List.mem_singleton_self x) _).setPc _).setStatus rfl _⟩
    rw [setStatus_readV, readV_finishPlain_same, toNat_key]
  · intro none
    rw [step_awaitingKey waits, keyWaitStep_none (lowestKey_none.mpr none)]

/-- A running machine steps by the instruction it fetches and decodes (R73). -/
theorem step_of_decode {s : State} {w : Word} {i : Instr} (running : s.status = .running) (fetched : s.fetch = .ok w)
    (decoded : decode w = .instr i) : step s = finishCycle (exec i s) := by
  simp only [step, running, runningCycle, fetched, decoded]

/-- Setting the status back to what it was changes nothing. -/
theorem setStatus_setStatus_same {s : State} {status : Status} (same : s.status = status) (between : Status) :
    (s.setStatus between).setStatus status = s := by
  subst same
  rfl

/-- Settles O34: the wait's cycle and the key read agree for both answers of the keys; the wait ends `Running`, and with
no key pressed the read waits again. -/
theorem keyWaitCycleEqualsExecutingTheWordAgain : Obligations.KeyWaitCycleEqualsExecutingTheWordAgain := by
  intro x s w waits fetched decoded
  have again : step (s.setStatus .running) = finishCycle (exec (.ldVxK x) (s.setStatus .running)) :=
    step_of_decode rfl fetched decoded
  rw [step_awaitingKey waits, again]
  cases lowest : s.lowestKey with
  | some k =>
    rw [keyWaitStep_pressed lowest, exec_ldVxK_pressed (s := s.setStatus .running) lowest]
    rfl
  | none =>
    rw [keyWaitStep_none lowest, exec_ldVxK_none (s := s.setStatus .running) lowest, setStatus_setStatus_same waits,
      finishCycle]

end Sys2Proof.Machine
end

section
/-! SUPPORT. The end of a cycle (45_timers_keys.md R110), and the index arithmetic of 46_index_system.md (R122,
R123). -/

namespace Sys2Proof.Machine

theorem endCycle_ticks {s : State} (safe : s.safe) (enabled : s.input.tickEn = true) :
    s.endCycle = s.tick.consumeInput := by
  have notFaulted : s.isFaulted = false := safe
  simp [State.endCycle, notFaulted, enabled]

theorem endCycle_quiet {s : State} (safe : s.safe) (disabled : s.input.tickEn = false) :
    s.endCycle = s.quiet.consumeInput := by
  have notFaulted : s.isFaulted = false := safe
  simp [State.endCycle, notFaulted, disabled]

/-- Settles O41: the tick counts both timers down once and gives the pulse; a cycle without it gives none. -/
theorem tickCountsBothTimersDown : Obligations.TickCountsBothTimersDown := by
  intro s safe
  constructor
  · intro enabled
    rw [endCycle_ticks safe enabled]
    exact ⟨countDown_toNat s.dt, countDown_toNat s.st, decide_eq_true_iff, rfl⟩
  · intro disabled
    rw [endCycle_quiet safe disabled]
    rfl

/-- Settles O42: each tick takes one off what the ticks before it have left. -/
theorem ticksDrainTheTimersToZero : Obligations.TicksDrainTheTimersToZero := by
  intro n s
  induction n with
  | zero => exact ⟨rfl, rfl⟩
  | succ n ih =>
    obtain ⟨delay, sound⟩ := ih
    rw [Function.iterate_succ_apply', tick_dt, tick_st, countDown_toNat, countDown_toNat, delay, sound]
    omega

@[simp] theorem exec_addI (x : RegNum) (s : State) :
    exec (.addI x) s = .next (s.setI (s.i + (s.readV x).setWidth 16)).advance := rfl

@[simp] theorem exec_ldF (x : RegNum) (s : State) :
    exec (.ldF x) s = .next (s.setI (glyphAddress (s.readV x))).advance := rfl

theorem toNat_glyphAddress (v : Byte) : (glyphAddress v).toNat = 5 * (v.toNat % 16) := by
  rw [glyphAddress, BitVec.toNat_ofNat]
  omega

/-- Settles O36: the sum of two words wraps at 65536; the last of the sixteen glyphs begins at 0x04B. -/
theorem indexArithmeticWrapsAndGlyphsLieInTheFont : Obligations.IndexArithmeticWrapsAndGlyphsLieInTheFont := by
  intro x s
  refine ⟨⟨_, exec_addI x s, ?_, rfl, ((Frame.refl _ s).setI rfl _).setPc _⟩,
    ⟨_, exec_ldF x s, toNat_glyphAddress _, ?_, rfl, ((Frame.refl _ s).setI rfl _).setPc _⟩⟩
  · rw [advance_i, setI_i, BitVec.toNat_add, BitVec.toNat_setWidth_of_le (by decide)]
  · rw [advance_i, setI_i, toNat_glyphAddress]
    omega

end Sys2Proof.Machine
end

section
/-! SUPPORT. What an instruction can do, said once for all of them: it completes, within its frame, or it raises its
fault, which is the whole effect. -/

namespace Sys2Proof.Machine

/-- What each instruction may write beside the program counter (10_state.md, 20_memory.md R41). -/
def writesOf (s : State) : Instr → Writes
  | .call _ => { stack := true }
  | .ret => { stack := true }
  | .ldI _ => { index := true }
  | .addI _ => { index := true }
  | .ldF _ => { index := true }
  | .ldDTVx _ => { delay := true }
  | .ldSTVx _ => { sound := true }
  | .cls => { display := true }
  | .drw _ _ _ => { regs := [15], display := true }
  | .ldVxK x => { regs := [x], status := true }
  | .ldB _ => { base := s.i.toNat, length := 3 }
  | .ldStore x => { base := s.i.toNat, length := x.val + 1 }
  | i => { regs := writesRegs i }

/-- The instruction `i` completes from `s` in `t`: its frame, and what a frame does not say about memory, the return
stack, the status and the program counter. -/
structure Completes (i : Instr) (s t : State) : Prop where
  frame  : Frame (writesOf s i) s t
  memory : t.mem = s.mem ∨ (∃ x, i = .ldB x ∨ i = .ldStore x) ∧
    ∃ bytes, s.i.toNat + bytes.length ≤ 4096 ∧ t.mem = (s.putBytes s.i.toNat bytes).mem
  stack  : t.stack = s.stack ∨ ∃ top : Fin 16, t.stack = s.stack.set top.val (s.pc + 2#16)
  status : t.status = s.status ∨ ∃ x, i = .ldVxK x ∧ t.status = .awaitingKey x ∧ t.pc = s.pc
  pc     : t.pc = s.pc ∨ t.pc = s.pc + 2#16 ∨ t.pc = s.pc + 4#16 ∨ t.pc.toNat ≤ 0x10FE ∨
    ∃ j : Fin 16, t.pc = s.stack[j.val]

section
variable {i : Instr} {s t : State}

/-- An instruction that ends with the default advance and leaves memory, stack and status. -/
theorem Completes.advances (frame : Frame (writesOf s i) s t) (memory : t.mem = s.mem) (stack : t.stack = s.stack)
    (status : t.status = s.status) (pc : t.pc = s.pc + 2#16) : Completes i s t :=
  ⟨frame, .inl memory, .inl stack, .inl status, .inr (.inl pc)⟩

/-- An instruction that ends with a conditional skip and writes nothing else. -/
theorem Completes.skips (i : Instr) (s : State) (c : Bool) : Completes i s (s.skipIf c) := by
  refine ⟨(Frame.refl _ s).skipIf c, .inl rfl, .inl rfl, .inl rfl, ?_⟩
  cases c
  · exact .inr (.inl rfl)
  · exact .inr (.inr (.inl rfl))

/-- An instruction that jumps to an address of at most 0x10FE and writes nothing else (R23). -/
theorem Completes.jumps (i : Instr) (s : State) {target : Word} (low : target.toNat ≤ 0x10FE) :
    Completes i s (s.setPc target) :=
  ⟨(Frame.refl _ s).setPc _, .inl rfl, .inl rfl, .inl rfl, .inr (.inr (.inr (.inl low)))⟩

/-- An instruction that stores bytes inside the address space. -/
theorem Completes.stores (store : ∃ x, i = .ldB x ∨ i = .ldStore x) (bytes : List Byte)
    (inside : s.i.toNat + bytes.length ≤ 4096)
    (frame : Frame (writesOf s i) s (s.putBytes s.i.toNat bytes).advance) :
    Completes i s (s.putBytes s.i.toNat bytes).advance :=
  ⟨frame, .inr ⟨store, bytes, inside, rfl⟩, .inl rfl, .inl rfl, .inr (.inl rfl)⟩

theorem toNat_setWidth_addr (nnn : Addr12) : (nnn.setWidth 16 : Word).toNat = nnn.toNat :=
  BitVec.toNat_setWidth_of_le (by decide)

/-- Within its bound every key number is allowed. -/
theorem exists_keyOf {v : Byte} {policy : KeyIndexPolicy} (bound : policy = .fault → v.toNat ≤ 0xF) :
    ∃ k, keyOf policy v = some k := by
  rcases keyOf_cases policy v with ⟨fault, big, -⟩ | ⟨-, key⟩
  · exact absurd (bound fault) (by omega)
  · exact ⟨_, key⟩

/-- An instruction within its bound completes. -/
theorem exec_completes (bound : fits i s) : ∃ t, exec i s = .next t ∧ Completes i s t := by
  cases i with
  | sys nnn => exact ⟨_, exec_sys nnn s, .advances ((Frame.refl _ s).setPc _) rfl rfl rfl rfl⟩
  | cls => exact ⟨_, exec_cls s, .advances (((Frame.refl _ s).setDisplay rfl _).setPc _) rfl rfl rfl rfl⟩
  | ret =>
    exact ⟨_, exec_ret_held bound, ((Frame.refl _ s).setStack rfl _ _).setPc _, .inl rfl, .inl rfl, .inl rfl,
      .inr (.inr (.inr (.inr ⟨⟨s.sp.val - 1, by omega⟩, rfl⟩)))⟩
  | jp nnn =>
    have := nnn.isLt
    exact ⟨_, exec_jp nnn s, .jumps _ s (by rw [toNat_setWidth_addr]; omega)⟩
  | call nnn =>
    have := nnn.isLt
    exact ⟨_, exec_call_room nnn bound, ((Frame.refl _ s).setStack rfl _ _).setPc _, .inl rfl,
      .inr ⟨⟨s.sp.val, bound⟩, rfl⟩, .inl rfl,
      .inr (.inr (.inr (.inl (by rw [setPc_pc, toNat_setWidth_addr]; omega))))⟩
  | seImm x kk => exact ⟨_, exec_seImm x kk s, .skips _ s _⟩
  | sneImm x kk => exact ⟨_, exec_sneImm x kk s, .skips _ s _⟩
  | seReg x y => exact ⟨_, exec_seReg x y s, .skips _ s _⟩
  | ldImm x kk => exact ⟨_, exec_ldImm x kk s, .advances (frame_finishPlain ..) rfl rfl rfl rfl⟩
  | addImm x kk => exact ⟨_, exec_addImm x kk s, .advances (frame_finishPlain ..) rfl rfl rfl rfl⟩
  | ldReg x y => exact ⟨_, exec_ldReg x y s, .advances (frame_finishPlain ..) rfl rfl rfl rfl⟩
  | orReg x y => exact ⟨_, exec_orReg x y s, .advances (frame_finishPlain ..) rfl rfl rfl rfl⟩
  | andReg x y => exact ⟨_, exec_andReg x y s, .advances (frame_finishPlain ..) rfl rfl rfl rfl⟩
  | xorReg x y => exact ⟨_, exec_xorReg x y s, .advances (frame_finishPlain ..) rfl rfl rfl rfl⟩
  | addReg x y => exact ⟨_, exec_addReg x y s, .advances (frame_finishFlagged ..) rfl rfl rfl rfl⟩
  | subReg x y => exact ⟨_, exec_subReg x y s, .advances (frame_finishFlagged ..) rfl rfl rfl rfl⟩
  | shr x y => exact ⟨_, exec_shr x y s, .advances (frame_finishFlagged ..) rfl rfl rfl rfl⟩
  | subn x y => exact ⟨_, exec_subn x y s, .advances (frame_finishFlagged ..) rfl rfl rfl rfl⟩
  | shl x y => exact ⟨_, exec_shl x y s, .advances (frame_finishFlagged ..) rfl rfl rfl rfl⟩
  | sneReg x y => exact ⟨_, exec_sneReg x y s, .skips _ s _⟩
  | ldI nnn => exact ⟨_, exec_ldI nnn s, .advances (((Frame.refl _ s).setI rfl _).setPc _) rfl rfl rfl rfl⟩
  | jpV0 nnn =>
    have := nnn.isLt
    have := (s.readV 0).isLt
    exact ⟨_, exec_jpV0 nnn s, .jumps _ s (by rw [toNat_indexedAddress]; omega)⟩
  | rnd x kk => exact ⟨_, exec_rnd x kk s, .advances (frame_finishPlain ..) rfl rfl rfl rfl⟩
  | drw x y n => exact ⟨_, exec_drw_readable x y bound, .advances (frame_finishDraw ..) rfl rfl rfl rfl⟩
  | skp x =>
    obtain ⟨k, key⟩ := exists_keyOf bound
    exact ⟨_, exec_skp_key key, .skips _ s _⟩
  | sknp x =>
    obtain ⟨k, key⟩ := exists_keyOf bound
    exact ⟨_, exec_sknp_key key, .skips _ s _⟩
  | ldVxDT x => exact ⟨_, exec_ldVxDT x s, .advances (frame_finishPlain ..) rfl rfl rfl rfl⟩
  | ldVxK x =>
    cases lowest : s.lowestKey with
    | some k =>
      exact ⟨_, exec_ldVxK_pressed lowest,
        .advances (((Frame.refl _ s).setV (List.mem_singleton_self x) _).setPc _) rfl rfl rfl rfl⟩
    | none =>
      exact ⟨_, exec_ldVxK_none lowest, (Frame.refl _ s).setStatus rfl _, .inl rfl, .inl rfl,
        .inr ⟨x, rfl, rfl, rfl⟩, .inl rfl⟩
  | ldDTVx x => exact ⟨_, exec_ldDTVx x s, .advances (((Frame.refl _ s).setDt rfl _).setPc _) rfl rfl rfl rfl⟩
  | ldSTVx x => exact ⟨_, exec_ldSTVx x s, .advances (((Frame.refl _ s).setSt rfl _).setPc _) rfl rfl rfl rfl⟩
  | addI x => exact ⟨_, exec_addI x s, .advances (((Frame.refl _ s).setI rfl _).setPc _) rfl rfl rfl rfl⟩
  | ldF x => exact ⟨_, exec_ldF x s, .advances (((Frame.refl _ s).setI rfl _).setPc _) rfl rfl rfl rfl⟩
  | ldB x =>
    exact ⟨_, exec_ldB_writable bound, .stores ⟨x, .inl rfl⟩ _ (noneOf_unwritable_inside (Nat.succ_pos 2) bound)
      (frame_ldB s x)⟩
  | ldStore x =>
    have inside := noneOf_unwritable_inside (Nat.succ_pos _) bound
    exact ⟨_, exec_ldStore_writable bound, .stores ⟨x, .inr rfl⟩ _ (by rw [length_readVs]; exact inside)
      (frame_ldStore s x)⟩
  | ldLoad x => exact ⟨_, exec_ldLoad_readable bound, .advances (frame_ldLoad s x) rfl rfl rfl rfl⟩

/-- Everything an instruction that leaves a state can have done. -/
theorem exec_cases (left : exec i s = .next t) :
    (fits i s ∧ Completes i s t) ∨ ∃ r, Raises s i r ∧ t = faultedWith s r := by
  by_cases bound : fits i s
  · obtain ⟨u, executed, completes⟩ := exec_completes bound
    cases left.symm.trans executed
    exact .inl ⟨bound, completes⟩
  · obtain ⟨r, raises⟩ := exists_raises bound
    cases left.symm.trans (exec_of_raises raises)
    exact .inr ⟨r, raises, rfl⟩

theorem exec_total (i : Instr) (s : State) : ∃ t, exec i s = .next t := by
  by_cases bound : fits i s
  · obtain ⟨t, executed, -⟩ := exec_completes bound
    exact ⟨t, executed⟩
  · obtain ⟨r, raises⟩ := exists_raises bound
    exact ⟨_, exec_of_raises raises⟩

/-- An instruction that completes raises no fault. -/
theorem Completes.safe (completes : Completes i s t) (safe : s.safe) : t.safe := by
  rcases completes.status with same | ⟨x, -, waits, -⟩
  · simpa only [State.safe, State.isFaulted, same] using safe
  · simp only [State.safe, State.isFaulted, waits]

theorem Completes.not_faulted (completes : Completes i s t) (safe : s.safe) (r : FaultRecord) :
    t.status ≠ .faulted r := fun taken => by
  have unfaulted : t.isFaulted = false := completes.safe safe
  rw [isFaulted_iff.mpr ⟨r, taken⟩] at unfaulted
  cases unfaulted

/-- Each kind of state is written by the named instructions only. -/
theorem writesOf_named (s : State) (i : Instr) :
    (writesOf s i).regs = writesRegs i ∧
    ((∀ nnn x, i ≠ .ldI nnn ∧ i ≠ .addI x ∧ i ≠ .ldF x) → (writesOf s i).index = false) ∧
    ((∀ nnn, i ≠ .call nnn ∧ i ≠ .ret) → (writesOf s i).stack = false) ∧
    ((∀ x, i ≠ .ldDTVx x) → (writesOf s i).delay = false) ∧
    ((∀ x, i ≠ .ldSTVx x) → (writesOf s i).sound = false) ∧
    ((∀ x y n, i ≠ .drw x y n ∧ i ≠ .cls) → (writesOf s i).display = false) := by
  cases i <;> simp [writesOf, writesRegs]

end

/-- Settles O46: the faults of an instruction are those of `Raises`; an instruction that completes takes none. -/
theorem eachInstructionRaisesOnlyItsOwnFault : Obligations.EachInstructionRaisesOnlyItsOwnFault := by
  intro i s t r safe left faulted
  rcases exec_cases left with ⟨-, completes⟩ | ⟨r', raises, rfl⟩
  · exact absurd faulted (completes.not_faulted safe r)
  · cases faulted
    cases raises with
    | call full => exact ⟨⟨_, rfl⟩, rfl, full⟩
    | ret empty => exact ⟨rfl, rfl, empty⟩
    | drw first => exact ⟨.inl ⟨_, _, _, rfl, first⟩, rfl⟩
    | ldB first => exact ⟨.inr (.inl ⟨_, rfl, first⟩), rfl⟩
    | ldStore first => exact ⟨.inr (.inr (.inl ⟨_, rfl, first⟩)), rfl⟩
    | ldLoad first => exact ⟨.inr (.inr (.inr ⟨_, rfl, first⟩)), rfl⟩
    | skp policy big => exact ⟨⟨_, .inl rfl, rfl⟩, rfl, big, policy⟩
    | sknp policy big => exact ⟨⟨_, .inr rfl, rfl⟩, rfl, big, policy⟩

/-- Settles O52: an instruction that completes stays within its frame, and a raised fault writes only the status and the
pulse. -/
theorem onlyTheNamedInstructionsWriteEachState : Obligations.OnlyTheNamedInstructionsWriteEachState := by
  intro i s t left
  rcases exec_cases left with ⟨-, completes⟩ | ⟨r, raises, rfl⟩
  · obtain ⟨frame, memory, -, status, -⟩ := completes
    obtain ⟨regs, index, stack, delay, sound, display⟩ := writesOf_named s i
    refine ⟨fun r free => frame.regs r (regs ▸ free), fun others => frame.index (index others),
      fun others => frame.stack (stack others), fun others => frame.delay (delay others),
      fun others => frame.sound (sound others), fun others => frame.display (display others), fun others => ?_, ?_,
      .inl frame.tonePulse, frame.keys⟩
    · rcases memory with same | ⟨⟨x, store⟩, -⟩
      · exact same
      · exact store.elim (absurd · (others x).1) (absurd · (others x).2)
    · rcases status with same | ⟨x, read, waits, -⟩
      · exact .inl same
      · exact .inr (.inl ⟨x, read, waits⟩)
  · exact ⟨fun _ _ => rfl, fun _ => rfl, fun _ => ⟨rfl, rfl⟩, fun _ => rfl, fun _ => rfl, fun _ => ⟨rfl, rfl⟩,
      fun _ => rfl, .inr (.inr ⟨r, rfl⟩), .inr ⟨r, rfl⟩, rfl⟩

end Sys2Proof.Machine
end

section
/-! SUPPORT. The cycle around an instruction (40_execution_cycle.md R68 to R76): the fetch, each way a step can go, what
the end of the cycle keeps, and the faults of a cycle (60_exceptions.md R126, R127, R146). -/

namespace Sys2Proof.Machine

/-! The fetch. -/

theorem fetch_inside {s : State} (inside : s.pc.toNat ≤ 0xFFE) :
    s.fetch = .ok (wordOfBytes (s.readByte s.pc.toNat) (s.readByte (s.pc.toNat + 1))) := by
  rcases fetch_cases s with ⟨-, fetched⟩ | ⟨edge, -⟩ | ⟨beyond, -⟩
  · exact fetched
  · omega
  · omega

theorem fetch_ok_iff {s : State} {w : Word} : s.fetch = .ok w ↔
    s.pc.toNat ≤ 0xFFE ∧ wordOfBytes (s.readByte s.pc.toNat) (s.readByte (s.pc.toNat + 1)) = w := by
  rcases fetch_cases s with ⟨inside, fetched⟩ | ⟨edge, failed⟩ | ⟨beyond, failed⟩
  · simp [fetched, inside]
  · simp [failed, edge]
  · simp only [failed, reduceCtorEq, false_iff, not_and]
    omega

theorem fetch_error_beyond {s : State} {bad : Nat} (failed : s.fetch = .error bad) : s.pc.toNat > 0xFFE := by
  by_contra inside
  cases failed.symm.trans (fetch_inside (by omega))

/-- Settles O39: the three ranges of `PC` are those of `fetch_cases`. -/
theorem fetchReadsTheWordOrFaults : Obligations.FetchReadsTheWordOrFaults := by
  intro s
  refine ⟨fun inside => ⟨_, fetch_inside (by omega), ?_⟩, fun edge => ?_, fun beyond => ?_⟩
  · rw [wordOfBytes_toNat, Nat.mul_comm]
  · rcases fetch_cases s with ⟨inside, -⟩ | ⟨-, failed⟩ | ⟨beyond, -⟩
    · omega
    · exact failed
    · omega
  · rcases fetch_cases s with ⟨inside, -⟩ | ⟨edge, -⟩ | ⟨-, failed⟩
    · omega
    · omega
    · exact failed

/-! The ways a step can go. -/

theorem step_of_fetch_error {s : State} {bad : Nat} (running : s.status = .running) (failed : s.fetch = .error bad) :
    step s = .next (s.raise (.memoryOutOfBounds s.pc none bad)).consumeInput := by
  simp only [step, running, runningCycle, failed, finishCycle, endCycle_raise]

theorem step_of_unknown {s : State} {w u : Word} (running : s.status = .running) (fetched : s.fetch = .ok w)
    (unknown : decode w = .unknownOpcode u) : step s = .next (s.raise (.unknownOpcode s.pc u)).consumeInput := by
  simp only [step, running, runningCycle, fetched, unknown, finishCycle, endCycle_raise]

theorem step_faulted {s : State} {r : FaultRecord} (faulted : s.status = .faulted r) :
    step s = .next s.consumeInput := by
  simp only [step, faulted]

/-- Settles O38: the two bytes at `PC` are the fetched word. -/
theorem stepExecutesTheDecodedInstruction : Obligations.StepExecutesTheDecodedInstruction := by
  intro s i running inside decoded
  have executes : step s = finishCycle (exec i s) := step_of_decode running (fetch_inside inside) decoded
  exact ⟨executes, fun t left => by rw [executes, left, finishCycle]⟩

/-- Settles O40: both faults are raised before an instruction executes, and end the cycle without a tick. -/
theorem fetchAndDecodeFaultsChangeNothingElse : Obligations.FetchAndDecodeFaultsChangeNothingElse := fun _ running =>
  ⟨fun _ failed => step_of_fetch_error running failed, fun _ fetched unknown => step_of_unknown running fetched unknown⟩

/-- Settles O45: the cycle of a faulted machine spends its inputs and nothing else. -/
theorem faultedMachineNeverChanges : Obligations.FaultedMachineNeverChanges := fun s _ faulted =>
  ⟨s.consumeInput, step_faulted faulted, rfl⟩

/-- Settles O48: in each status, and for each answer of the fetch and the decoder; the instructions are total. -/
theorem everyCycleLeavesAState : Obligations.EveryCycleLeavesAState := by
  intro s
  cases status : s.status with
  | faulted r => exact ⟨_, step_faulted status⟩
  | awaitingKey x => exact ⟨_, step_awaitingKey status⟩
  | running =>
    cases fetched : s.fetch with
    | error bad => exact ⟨_, step_of_fetch_error status fetched⟩
    | ok w =>
      cases decoded : decode w with
      | unknownOpcode u => exact ⟨_, step_of_unknown status fetched decoded⟩
      | instr i =>
        obtain ⟨t, left⟩ := exec_total i s
        exact ⟨t.endCycle, by rw [step_of_decode status fetched decoded, left, finishCycle]⟩

/-! What every step keeps. -/

theorem endCycle_faulted {s : State} (faulted : s.isFaulted = true) : s.endCycle = s.consumeInput := by
  simp [State.endCycle, faulted]

@[simp] theorem endCycle_status (s : State) : s.endCycle.status = s.status := by
  obtain ⟨-, -, -, -, -, -, -, -, status, -⟩ := endCycle_frame s
  exact status

@[simp] theorem endCycle_isFaulted (s : State) : s.endCycle.isFaulted = s.isFaulted := by
  simp only [State.isFaulted, endCycle_status]

@[simp] theorem endCycle_readV (s : State) (x : RegNum) : s.endCycle.readV x = s.readV x := by
  obtain ⟨v, -⟩ := endCycle_frame s
  simp only [State.readV, v]

/-- A cycle of the key wait writes at most the saved register, the status and the program counter. -/
theorem frame_keyWaitStep (s : State) (x : RegNum) : Frame { regs := [x], status := true } s (s.keyWaitStep x) := by
  cases lowest : s.lowestKey with
  | some k =>
    rw [keyWaitStep_pressed lowest]
    exact (((Frame.refl _ s).setV (List.mem_singleton_self x) _).setPc _).setStatus rfl _
  | none =>
    rw [keyWaitStep_none lowest]
    exact Frame.refl _ s

/-- Every step is the end of a cycle that has kept the keys, the parameters and the host's inputs. -/
theorem step_ends_cycle {s t : State} (left : step s = .next t) :
    ∃ u : State, t = u.endCycle ∧ u.keys = s.keys ∧ u.cfg = s.cfg ∧ u.inputs = s.inputs ∧ u.draws = s.draws := by
  rcases step_cases left with ⟨r, faulted, rfl⟩ | ⟨x, -, rfl⟩ | ⟨bad, -, -, rfl⟩ | ⟨w, u, -, -, -, rfl⟩ |
    ⟨w, i, u, -, -, -, executed, rfl⟩
  · exact ⟨s, (endCycle_faulted (isFaulted_iff.mpr ⟨r, faulted⟩)).symm, rfl, rfl, rfl, rfl⟩
  · have frame := frame_keyWaitStep s x
    exact ⟨_, rfl, frame.keys, frame.cfg, frame.inputs, frame.draws⟩
  · exact ⟨_, (endCycle_raise ..).symm, rfl, rfl, rfl, rfl⟩
  · exact ⟨_, (endCycle_raise ..).symm, rfl, rfl, rfl, rfl⟩
  · rcases exec_cases executed with ⟨-, completes⟩ | ⟨r, -, rfl⟩
    · have frame := completes.frame
      exact ⟨u, rfl, frame.keys, frame.cfg, frame.inputs, frame.draws⟩
    · exact ⟨_, rfl, rfl, rfl, rfl, rfl⟩

/-- Settles O53: neither the work of a cycle nor its end writes them. -/
theorem stepNeverWritesKeysOrParameters : Obligations.StepNeverWritesKeysOrParameters := by
  intro s t left
  obtain ⟨u, rfl, keys, cfg, -, -⟩ := step_ends_cycle left
  obtain ⟨-, -, -, -, -, -, -, keys', -, -, cfg', -⟩ := endCycle_frame u
  exact ⟨keys'.trans keys, cfg'.trans cfg⟩

/-- A step spends one cycle's inputs. -/
theorem step_spends_input {s t : State} (left : step s = .next t) :
    t.inputs = s.inputs.tail ∧ t.draws = if s.inputs = [] then s.draws + 1 else s.draws := by
  obtain ⟨u, rfl, -, -, inputs, draws⟩ := step_ends_cycle left
  obtain ⟨-, -, -, -, -, -, -, -, -, -, -, inputs', draws'⟩ := endCycle_frame u
  rw [inputs', draws', inputs, draws]
  exact ⟨rfl, rfl⟩

/-! The faults of a cycle. -/

/-- What a cycle that takes a fault leaves. -/
theorem endCycle_faultedWith (s : State) (r : FaultRecord) :
    (faultedWith s r).endCycle = (faultedWith s r).consumeInput := endCycle_raise s r

/-- Settles O44: a fault of the fetch or the decoder has its own record; an instruction's has `PC` and the instruction's
encoding, which is the fetched word (O2). -/
theorem faultsArePrecise : Obligations.FaultsArePrecise := by
  intro s t r running left faulted
  rcases step_cases left with ⟨_, other, -⟩ | ⟨_, other, -⟩ | ⟨bad, -, failed, rfl⟩ | ⟨w, u, -, fetched, unknown, rfl⟩ |
    ⟨w, i, u, -, fetched, decoded, executed, rfl⟩
  · cases running.symm.trans other
  · cases running.symm.trans other
  · cases faulted
    exact ⟨rfl, rfl, fun inside => absurd (fetch_error_beyond failed) (by omega), fun _ => rfl⟩
  · obtain ⟨inside, word⟩ := fetch_ok_iff.mp fetched
    cases faulted
    cases decode_unknown_word unknown
    exact ⟨rfl, rfl, fun _ => congrArg some word.symm, fun beyond => absurd inside (by omega)⟩
  · obtain ⟨inside, word⟩ := fetch_ok_iff.mp fetched
    rcases exec_cases executed with ⟨-, completes⟩ | ⟨r', raises, rfl⟩
    · rw [endCycle_status] at faulted
      exact absurd faulted (completes.not_faulted (isFaulted_running running) r)
    · rw [endCycle_faultedWith] at faulted ⊢
      cases faulted
      refine ⟨rfl, raises.pc_eq, fun _ => ?_, fun beyond => absurd inside (by omega)⟩
      rw [raises.word_eq, (encodeOfDecodeIsTheWord w i decoded).2]
      exact congrArg some word.symm

/-- Settles O47: a cycle is safe where it fetches, decodes, and its instruction completes, which is within its bound. -/
theorem cycleIsSafeExactlyWithinBounds : Obligations.CycleIsSafeExactlyWithinBounds := by
  intro s t running left
  rcases step_cases left with ⟨_, other, -⟩ | ⟨_, other, -⟩ | ⟨bad, -, failed, rfl⟩ | ⟨w, u, -, fetched, unknown, rfl⟩ |
    ⟨w, i, u, -, fetched, decoded, executed, rfl⟩
  · cases running.symm.trans other
  · cases running.symm.trans other
  · refine ⟨nofun, fun ⟨inside, _⟩ => absurd (fetch_error_beyond failed) (by omega)⟩
  · obtain ⟨-, rfl⟩ := fetch_ok_iff.mp fetched
    exact ⟨nofun, fun ⟨_, i, decoded, _⟩ => nomatch unknown.symm.trans decoded⟩
  · obtain ⟨inside, rfl⟩ := fetch_ok_iff.mp fetched
    rcases exec_cases executed with ⟨bound, completes⟩ | ⟨r, raises, rfl⟩
    · exact ⟨fun _ => ⟨inside, i, decoded, bound⟩,
        fun _ => (endCycle_isFaulted u).trans (completes.safe (isFaulted_running running))⟩
    · refine ⟨fun safe => ?_, fun ⟨_, j, decoded', bound⟩ => ?_⟩
      · cases (endCycle_isFaulted _).symm.trans safe
      · cases decoded.symm.trans decoded'
        exact absurd bound raises.not_fits

end Sys2Proof.Machine
end

section
/-! SUPPORT. The inputs of a cycle (40_execution_cycle.md R68, 42_alu.md R101): a host cycle uses the ones it is given,
and an instruction other than `RND` works the same whatever the list of inputs holds. -/

namespace Sys2Proof.Machine

/-- The state with another list of coming inputs. -/
def State.withInputs (s : State) (inputs : List CycleInput) : State := { s with inputs := inputs }

/-- A change of the state that an outcome leaves. -/
def mapNext (f : State → State) : Result → Result
  | .next t => .next (f t)
  | .fault e => .fault e
  | .refused e => .refused e

theorem hostCycle_eq (tickEn : Bool) (rnd : Byte) (s : State) :
    hostCycle tickEn rnd s = step (s.withInputs (⟨tickEn, rnd⟩ :: s.inputs)) := rfl

/-- With `tick_en` the delay timer is one lower at the end of a cycle without fault, else it is the same (R110). -/
theorem toNat_endCycle_dt {s : State} (safe : s.safe) :
    s.endCycle.dt.toNat = s.dt.toNat - if s.input.tickEn then 1 else 0 := by
  cases enabled : s.input.tickEn with
  | true => rw [endCycle_ticks safe enabled, consumeInput_dt, tick_dt, countDown_toNat, if_pos rfl]
  | false => rw [endCycle_quiet safe enabled, consumeInput_dt, quiet_dt, if_neg Bool.false_ne_true, Nat.sub_zero]

/-- What a cycle that executes a `RND` makes of its inputs. -/
theorem step_rnd {s t : State} {x : RegNum} {kk : Byte} (running : s.status = .running) (inside : s.pc.toNat ≤ 0xFFE)
    (decoded : decode (s.readByte s.pc.toNat ++ s.readByte (s.pc.toNat + 1)) = .instr (.rnd x kk))
    (left : step s = .next t) :
    t.readV x = s.input.rnd &&& kk ∧ t.dt.toNat = s.dt.toNat - if s.input.tickEn then 1 else 0 := by
  have executes := (stepExecutesTheDecodedInstruction s _ running inside decoded).2 _ (exec_rnd x kk s)
  cases left.symm.trans executes
  exact ⟨(endCycle_readV ..).trans (readV_finishPlain_same ..), toNat_endCycle_dt (isFaulted_running running)⟩

/-- Settles O43: the step spends the input that the host put first, and that one is what a `RND` and the tick read. -/
theorem hostCycleUsesItsOwnInputs : Obligations.HostCycleUsesItsOwnInputs := by
  intro tickEn r s
  obtain ⟨t, left⟩ := everyCycleLeavesAState (s.withInputs (⟨tickEn, r⟩ :: s.inputs))
  obtain ⟨inputs, draws⟩ := step_spends_input left
  exact ⟨t, left, inputs, draws, fun running inside x kk decoded =>
    step_rnd (s := s.withInputs (⟨tickEn, r⟩ :: s.inputs)) running inside decoded left⟩

/-! Noninterference. -/

/-- The fault of an instruction does not depend on the inputs. -/
theorem Raises.withInputs {s : State} {i : Instr} {r : FaultRecord} (raises : Raises s i r)
    (inputs : List CycleInput) : Raises (s.withInputs inputs) i r := by
  cases raises with
  | call full => exact .call full
  | ret empty => exact .ret empty
  | drw first => exact .drw first
  | ldB first => exact .ldB first
  | ldStore first => exact .ldStore first
  | ldLoad first => exact .ldLoad first
  | skp policy big => exact .skp (s := s.withInputs inputs) policy big
  | sknp policy big => exact .sknp (s := s.withInputs inputs) policy big

/-- "Only `RND` reads `rnd`" (R101): any other instruction carries the inputs along. -/
theorem exec_withInputs {i : Instr} (other : ∀ x kk, i ≠ .rnd x kk) (s : State) (inputs : List CycleInput) :
    exec i (s.withInputs inputs) = mapNext (·.withInputs inputs) (exec i s) := by
  by_cases bound : fits i s
  · cases i with
    | rnd x kk => exact absurd rfl (other x kk)
    | call nnn => rw [exec_call_room nnn bound, exec_call_room nnn (s := s.withInputs inputs) bound]; rfl
    | ret => rw [exec_ret_held bound, exec_ret_held (s := s.withInputs inputs) bound]; rfl
    | drw x y n =>
      rw [exec_drw_readable x y bound, exec_drw_readable x y (s := s.withInputs inputs) bound]; rfl
    | ldB x => rw [exec_ldB_writable bound, exec_ldB_writable (s := s.withInputs inputs) bound]; rfl
    | ldStore x => rw [exec_ldStore_writable bound, exec_ldStore_writable (s := s.withInputs inputs) bound]; rfl
    | ldLoad x => rw [exec_ldLoad_readable bound, exec_ldLoad_readable (s := s.withInputs inputs) bound]; rfl
    | skp x =>
      obtain ⟨k, key⟩ := exists_keyOf bound
      rw [exec_skp_key key, exec_skp_key (s := s.withInputs inputs) key]; rfl
    | sknp x =>
      obtain ⟨k, key⟩ := exists_keyOf bound
      rw [exec_sknp_key key, exec_sknp_key (s := s.withInputs inputs) key]; rfl
    | ldVxK x =>
      cases lowest : s.lowestKey with
      | some k => rw [exec_ldVxK_pressed lowest, exec_ldVxK_pressed (s := s.withInputs inputs) lowest]; rfl
      | none => rw [exec_ldVxK_none lowest, exec_ldVxK_none (s := s.withInputs inputs) lowest]; rfl
    | _ => rfl
  · obtain ⟨r, raises⟩ := exists_raises bound
    rw [exec_of_raises raises, exec_of_raises (raises.withInputs inputs)]
    rfl

theorem keyWaitStep_withInputs (s : State) (x : RegNum) (inputs : List CycleInput) :
    (s.withInputs inputs).keyWaitStep x = (s.keyWaitStep x).withInputs inputs := by
  cases lowest : s.lowestKey with
  | some k =>
    rw [keyWaitStep_pressed lowest, keyWaitStep_pressed (s := s.withInputs inputs) lowest]
    rfl
  | none => rw [keyWaitStep_none lowest, keyWaitStep_none (s := s.withInputs inputs) lowest]

/-- The work of a running cycle that does not fetch a `RND` carries the inputs along. -/
theorem runningCycle_withInputs {s : State} (other : ∀ w x kk, s.fetch = .ok w → decode w ≠ .instr (.rnd x kk))
    (inputs : List CycleInput) :
    runningCycle (s.withInputs inputs) = mapNext (·.withInputs inputs) (runningCycle s) := by
  have sameFetch : (s.withInputs inputs).fetch = s.fetch := rfl
  cases fetched : s.fetch with
  | error bad =>
    simp only [runningCycle, sameFetch, fetched, mapNext]
    rfl
  | ok w =>
    cases decoded : decode w with
    | unknownOpcode u =>
      simp only [runningCycle, sameFetch, fetched, decoded, mapNext]
      rfl
    | instr i =>
      simp only [runningCycle, sameFetch, fetched, decoded]
      exact exec_withInputs (fun x kk same => other w x kk fetched (same ▸ decoded)) s inputs

/-- The end of a cycle reads `tick_en` and no `rnd`. -/
theorem endCycle_withInputs_rnd (t : State) (tickEn : Bool) (r r' : Byte) (rest : List CycleInput) :
    (t.withInputs (⟨tickEn, r⟩ :: rest)).endCycle = (t.withInputs (⟨tickEn, r'⟩ :: rest)).endCycle := rfl

theorem finishCycle_withInputs_rnd (left : Result) (tickEn : Bool) (r r' : Byte) (rest : List CycleInput) :
    finishCycle (mapNext (·.withInputs (⟨tickEn, r⟩ :: rest)) left) =
      finishCycle (mapNext (·.withInputs (⟨tickEn, r'⟩ :: rest)) left) := by
  cases left with
  | next t => exact congrArg Host.Outcome.next (endCycle_withInputs_rnd t tickEn r r' rest)
  | fault e => rfl
  | refused e => rfl

/-- Settles O20: the work of the cycle carries the inputs along, and its end does not read `rnd`. -/
theorem onlyRandomDependsOnRnd : Obligations.OnlyRandomDependsOnRnd := by
  intro s tickEn r r' other
  rw [hostCycle_eq, hostCycle_eq]
  cases status : s.status with
  | faulted f =>
    have works (inputs : List CycleInput) : step (s.withInputs inputs) = .next (s.withInputs inputs).consumeInput :=
      step_faulted status
    rw [works, works]
    rfl
  | awaitingKey x =>
    have works (inputs : List CycleInput) : step (s.withInputs inputs) =
        .next ((s.keyWaitStep x).withInputs inputs).endCycle := by
      rw [← keyWaitStep_withInputs]
      exact step_awaitingKey status
    rw [works, works, endCycle_withInputs_rnd]
  | running =>
    have works (inputs : List CycleInput) : step (s.withInputs inputs) =
        finishCycle (mapNext (·.withInputs inputs) (runningCycle s)) := by
      rw [← runningCycle_withInputs (fun w x kk => other w x kk status)]
      simp only [step, State.withInputs, status]
    rw [works, works, finishCycle_withInputs_rnd]

end Sys2Proof.Machine
end

section
/-! SUPPORT. The invariant of the machine (`State.Inv`): reset has it, and each part of a cycle and each operation of
the host keeps it. -/

namespace Sys2Proof.Machine

section
variable {s t : State}

/-- A taken fault keeps the invariant if its record names `PC` (R127). -/
theorem State.Inv.faultedWith (inv : s.Inv) {r : FaultRecord} (named : r.pc = s.pc) : (faultedWith s r).Inv where
  memory := inv.memory
  pcRange := inv.pcRange
  stackRange := inv.stackRange
  waitingPc _ waits := nomatch waits
  faultPc _ taken := by
    cases taken
    exact named
  faultQuiet _ _ := rfl

/-- The end of a cycle keeps the invariant: after a fault it gives no pulse. -/
theorem State.Inv.endCycle (inv : s.Inv) : s.endCycle.Inv := by
  obtain ⟨-, -, pc, -, stack, -, -, -, status, mem, cfg, -⟩ := endCycle_frame s
  refine ⟨by rw [mem, cfg]; exact inv.memory, by rw [pc]; exact inv.pcRange, by rw [stack]; exact inv.stackRange,
    by rw [status, pc]; exact inv.waitingPc, by rw [status, pc]; exact inv.faultPc, fun r faulted => ?_⟩
  rw [status] at faulted
  rw [endCycle_faulted (isFaulted_iff.mpr ⟨r, faulted⟩)]
  exact inv.faultQuiet r faulted

/-- The addresses near a fetched instruction do not wrap (R23). -/
theorem toNat_pc_add (inside : s.pc.toNat ≤ 0xFFE) {k : Word} (small : k.toNat ≤ 4) :
    (s.pc + k).toNat = s.pc.toNat + k.toNat := by
  rw [BitVec.toNat_add]
  omega

/-- A key wait's cycle keeps the invariant: it ends two bytes past the `PC` that was fetched, or changes nothing. -/
theorem State.Inv.keyWaitStep (inv : s.Inv) {x : RegNum} (waits : s.status = .awaitingKey x) :
    (s.keyWaitStep x).Inv := by
  cases lowest : s.lowestKey with
  | some k =>
    rw [keyWaitStep_pressed lowest]
    refine ⟨inv.memory, ?_, inv.stackRange, nofun, nofun, nofun⟩
    have inside := inv.waitingPc x waits
    have next : (s.pc + 2#16).toNat = s.pc.toNat + 2 := toNat_pc_add inside (by decide)
    rw [setStatus_pc, finishPlain_pc, next]
    omega
  | none => rwa [keyWaitStep_none lowest]

/-- An instruction that completes keeps the invariant. -/
theorem Completes.inv {i : Instr} (completes : Completes i s t) (inv : s.Inv) (running : s.status = .running)
    (inside : s.pc.toNat ≤ 0xFFE) : t.Inv := by
  have two : (s.pc + 2#16).toNat = s.pc.toNat + 2 := toNat_pc_add inside (by decide)
  have four : (s.pc + 4#16).toNat = s.pc.toNat + 4 := toNat_pc_add inside (by decide)
  have unfaulted := completes.not_faulted (isFaulted_running running)
  refine ⟨?_, ?_, fun j => ?_, fun x waits => ?_, fun r taken => absurd taken (unfaulted r),
    fun r taken => absurd taken (unfaulted r)⟩
  · rw [completes.frame.cfg]
    rcases completes.memory with same | ⟨-, bytes, room, written⟩
    · rw [same]
      exact inv.memory
    · rw [written]
      exact putBytes_keeps_wf inv.memory room
  · rcases completes.pc with same | next | skip | low | ⟨j, returns⟩
    · rw [same]
      exact inv.pcRange
    · rw [next, two]
      omega
    · rw [skip, four]
      omega
    · exact low
    · rw [returns]
      exact (inv.stackRange j).trans (by decide)
  · rcases completes.stack with same | ⟨top, pushed⟩
    · rw [same]
      exact inv.stackRange j
    · simp only [pushed, Vector.getElem_set]
      split
      · rw [two]
        exact Nat.add_le_add_right inside 2
      · exact inv.stackRange j
  · rcases completes.status with same | ⟨-, -, -, stays⟩
    · cases (running.symm.trans same.symm).trans waits
    · rw [stays]
      exact inside

end

/-- Settles O49: by the ways a step can go; an instruction executes only from a `PC` that was fetched. -/
theorem stepKeepsTheInvariant : Obligations.StepKeepsTheInvariant := by
  intro s t inv left
  rcases step_cases left with ⟨r, faulted, rfl⟩ | ⟨x, waits, rfl⟩ | ⟨bad, -, -, rfl⟩ | ⟨w, u, -, -, -, rfl⟩ |
    ⟨w, i, u, running, fetched, -, executed, rfl⟩
  · rw [← endCycle_faulted (isFaulted_iff.mpr ⟨r, faulted⟩)]
    exact inv.endCycle
  · exact (inv.keyWaitStep waits).endCycle
  · rw [← endCycle_raise]
    exact State.Inv.endCycle (inv.faultedWith rfl)
  · rw [← endCycle_raise]
    exact State.Inv.endCycle (inv.faultedWith rfl)
  · rcases exec_cases executed with ⟨-, completes⟩ | ⟨r, raises, rfl⟩
    · exact (completes.inv inv running (fetch_ok_iff.mp fetched).1).endCycle
    · exact (inv.faultedWith raises.pc_eq).endCycle

/-- The invariant does not speak of the coming inputs, the keys or the redraw flag. -/
theorem State.Inv.of_same {s t : State} (inv : s.Inv) (mem : t.mem = s.mem) (cfg : t.cfg = s.cfg) (pc : t.pc = s.pc)
    (stack : t.stack = s.stack) (status : t.status = s.status) (pulse : t.tonePulse = s.tonePulse) : t.Inv := by
  refine ⟨?_, ?_, ?_, ?_, ?_, ?_⟩
  · rw [mem, cfg]; exact inv.memory
  · rw [pc]; exact inv.pcRange
  · rw [stack]; exact inv.stackRange
  · rw [status, pc]; exact inv.waitingPc
  · rw [status, pc]; exact inv.faultPc
  · rw [status, pulse]; exact inv.faultQuiet

/-- The reset state has the invariant, for any parameters. -/
theorem resetOf_inv (cfg : Config) : (State.resetOf cfg).Inv := by
  refine ⟨empty_wf, by rw [resetOf_pc]; decide, fun j => ?_, nofun, nofun, nofun⟩
  simp [State.resetOf]

/-- Settles O50: the first reset is `resetOf` at the default parameters, which leaves the machine running. -/
theorem resetSatisfiesTheInvariant : Obligations.ResetSatisfiesTheInvariant := ⟨resetOf_inv defaultConfig, rfl⟩

/-- A load keeps the canonical form of memory, and of the rest of the state it writes nothing. -/
theorem hostLoad_inv {s : State} (inv : s.Inv) (offset : Nat) (bytes : List Byte) :
    (hostLoad offset bytes s).2.Inv := by
  unfold hostLoad
  split
  · exact inv
  · exact { inv with memory := putBytes_keeps_wf inv.memory (by omega) }

/-- Settles O51: the host's cycle is a step (O49); of the others only the reset and the load write what the invariant
speaks of. -/
theorem hostOperationsKeepTheInvariant : Obligations.HostOperationsKeepTheInvariant := by
  intro op s t inv left
  cases op with
  | cycle tickEn rnd =>
    exact stepKeepsTheInvariant (s.withInputs (⟨tickEn, rnd⟩ :: s.inputs)) t (inv.of_same rfl rfl rfl rfl rfl rfl) left
  | reset =>
    cases left
    exact (resetOf_inv s.cfg).of_same rfl rfl rfl rfl rfl rfl
  | load offset bytes =>
    cases left
    exact hostLoad_inv inv offset bytes
  | setKey k pressed | clearRedraw =>
    cases left
    exact inv.of_same rfl rfl rfl rfl rfl rfl
  | readDisplay | readTone | inspect =>
    cases left
    exact inv

end Sys2Proof.Machine
end

section
/-! SUPPORT. What the host's reset gives beside O54, and what its other operations name (70_reset_and_hazards.md R140,
60_exceptions.md R134 to R136). -/

namespace Sys2Proof.Machine

theorem unlisted_font (font : Font) (d : Fin 80) : Memory.unlisted font d.val = font[d.val] := dif_pos d.isLt

theorem unlisted_beyond_font (font : Font) {a : Nat} (beyond : 0x050 ≤ a) : Memory.unlisted font a = 0x00#8 :=
  dif_neg (by omega)

/-- After a reset every byte reads as the reset contents (R44). -/
theorem hostReset_readByte (s : State) (a : Nat) : (hostReset s).readByte a = Memory.unlisted s.cfg.font a :=
  read_empty a

/-- Settles O55: the reset state's fields are constants, and its memory has nothing listed. -/
theorem resetGivesTheRemainingValues : Obligations.ResetGivesTheRemainingValues := by
  intro s
  refine ⟨rfl, rfl, fun j => ?_, rfl, rfl, fun row col => pixel_blank row col, rfl, fun k => ?_, rfl, rfl, rfl, rfl,
    fun d => ?_, fun a beyond => ?_⟩
  · simp only [hostReset, State.resetOf, Vector.getElem_replicate]
  · simp only [hostReset, State.resetOf, State.key, Vector.getElem_replicate]
  · rw [hostReset_readByte, unlisted_font]
  · rw [hostReset_readByte, unlisted_beyond_font s.cfg.font beyond]

theorem hostSetKey_key (k j : RegNum) (pressed : Bool) (s : State) :
    (hostSetKey k pressed s).key j = if j = k then pressed else s.key j := by
  simp only [State.key, hostSetKey, Vector.getElem_set, Fin.ext_iff, eq_comm]

/-- Settles O57: one key bit and one flag are written, and what is read is in the state. -/
theorem hostWritesAndReadsOnlyWhatItNames : Obligations.HostWritesAndReadsOnlyWhatItNames := fun k j pressed s =>
  ⟨hostSetKey_key k j pressed s, rfl, rfl, rfl, rfl, rfl, rfl, rfl, s.toneActive, rfl, decide_eq_true_iff⟩

end Sys2Proof.Machine
end
